-- ==== Sys2Proof/Word.lean ====
section
/-! DEFINITION. Word.lean: the two bit-vector types of the block (R9, R16). Every other number of the spec
is an exact natural number (R15). -/

namespace Sys2Proof

/-- A byte of the call buffer or of the response word (R16). -/
abbrev Byte := BitVec 8

/-- A 256-bit unsigned word: a field element, a call argument, an information word (R9, `WORD = 256`). -/
abbrev Word := BitVec 256

end Sys2Proof
end

