-- ==== Sys2Proof/Config.lean ====
section
/-! DEFINITION. Config.lean: the hardwired constants of R28, the parameters of R6 to R12, and the free values
of the spec (R13, R35, R55) as constants without a body. -/

namespace Sys2Proof.Config

/-! ## Hardwired constants (R28): none has an address, none ever changes -/

/-- The modulus `P`, the fixed prime of R6. -/
def P : Nat := 21888242871839275222246405745257275088548364400416034343698204186575808495617

/-- `FULL_ROUNDS` (R7): the permutation runs exactly this many rounds. -/
def fullRounds : Nat := 8

/-- `PARTIAL_ROUNDS` (R8, R78): carried as configuration, read by no rule. -/
def partialRounds : Nat := 57

/-- `WORD_BYTES` (R9). -/
def wordBytes : Nat := 32

/-- `SELECTOR_BYTES` (R9). -/
def selectorBytes : Nat := 4

/-- `WIDE` (R10): the least width, in bits, that makes the arithmetic before reduction exact. The model's
arithmetic is over exact naturals, so no definition reads it; the bound itself is a statement. -/
def wide : Nat := 512

/-- `SEL_POSEIDON1` (R58), as `sel[31:0]`. -/
def selPoseidon1 : Nat := 0x5727d155

/-- `SEL_POSEIDON2` (R58). -/
def selPoseidon2 : Nat := 0x6e9c433b

/-- `SEL_POSEIDONN` (R58). -/
def selPoseidonN : Nat := 0xf653802b

/-- The Keccak-256 digest of the text `poseidon1(uint256)` as R59 prints it. The block does not compute it. -/
def digestPoseidon1 : Nat := 0x5727d155b235d4c93f4b41564d1fc4d71a845afd970e339ecc5529384b9d04e4

/-- The digest of `poseidon2(uint256,uint256)` as R59 prints it. -/
def digestPoseidon2 : Nat := 0x6e9c433b777ed4fedfec4f87419ad835a4b5f892b8ab6a84fc9e5bdc74b4d817

/-- The digest of `poseidonN(uint256[])` as R59 prints it. -/
def digestPoseidonN : Nat := 0xf653802be391125be054043ca2255459112733bb0be96cd601b2f4b3feb32c7a

/-! ## Implementation parameters -/

/-- The least legal `MAX_CALLDATA` (R11: `MAX_CALLDATA >= 68`). -/
def minMaxCalldata : Nat := 68

/-- How far `MAX_CALLDATA` lies above its least value. R11 leaves it OPEN (D13), so it has no body: a claim
holds for every value. Log entry 2. -/
opaque maxCalldataExtra : Nat

/-- `MAX_CALLDATA` (R11), the largest call buffer, in bytes; it is at least 68 by its form. -/
def maxCalldata : Nat := minMaxCalldata + maxCalldataExtra

/-- `MAX_N` (R23): the most elements a call buffer of `MAX_CALLDATA` bytes carries when its offset word is 32; the
upper end of the range of `ac.n`. -/
def maxN : Nat := (maxCalldata - 68) / 32

/-- `ABI_STRICT` (R12): an OPEN parameter (D11), so it has no body and a claim holds for both settings.
Log entry 1. -/
opaque abiStrict : Bool

/-- The default of `ABI_STRICT` (R12). -/
def abiStrictDefault : Bool := false

/-! ## Free values (no body; applied to the draw counter of State, so that each draw is a fresh one) -/

/-- `LATENCY` (R13, R109): how many further steps a transaction stays BUSY before the step that sets RSP.
Any finite number; log entry 5. -/
opaque latency : Nat → Nat

/-- `RSP.word` of a failing transaction (R55, R107, R121: `any`); log entry 4. -/
opaque freeResponseWord : Nat → Vector Byte 32

/-- Scalar registers that R35 leaves unspecified after reset; log entry 3. -/
opaque freeNat : Nat → Nat

/-- `REQ.buf` after reset (R35: unspecified); log entry 3. -/
opaque freeBytes : Nat → List Byte

/-- `ac.elem` after reset (R35: unspecified); log entry 3. -/
opaque freeWords : Nat → List Word

end Sys2Proof.Config
end

