-- ==== Sys2Proof/Machine/Bytes.lean ====
section
/-! DEFINITION. Machine/Bytes.lean: byte order (R16, R39 to R42) and the call buffer, the block's one address
space (R18, R30). -/

namespace Sys2Proof.Machine

/-- `be(B)` of R16: the big-endian number of a byte sequence, byte 0 most significant. -/
def be : List Byte → Nat
  | [] => 0
  | b :: bs => b.toNat * 256 ^ bs.length + be bs

/-- The `n`-byte big-endian encoding of a number (its low `8 n` bits). -/
def beBytes : Nat → Nat → List Byte
  | 0, _ => []
  | n + 1, v => BitVec.ofNat 8 (v / 256 ^ n) :: beBytes n v

@[simp] theorem beBytes_length (n v : Nat) : (beBytes n v).length = n := by
  induction n with
  | zero => rfl
  | succ n ih => simp [beBytes, ih]

/-- `be32(v)` of R16: the 32-byte sequence whose `be` is `v`. -/
def be32 (v : Word) : Vector Byte 32 :=
  ⟨(beBytes 32 v.toNat).toArray, by simp⟩

/-- The call buffer `REQ.buf`: the bytes at addresses `0 .. REQ.len - 1` in address order (R24, R30). A dense
sequence is its own canonical form: equal buffers are equal lists. -/
abbrev Memory := List Byte

/-- `REQ.len`, the number of bytes of the buffer (R24). -/
def Memory.len (m : Memory) : Nat := m.length

/-- One byte of the buffer; an address at or above `REQ.len` does not exist (R30). -/
def Memory.readByte (m : Memory) (a : Nat) : Option Byte := m[a]?

/-- `MemRead(addr, n)` of R18: the bytes `REQ.buf[addr .. addr+n)`. Every use in the machine (the selector stage, the
ABI decodes) first checks `addr + n <= REQ.len`. `Request.key?`, which no step uses, does not for a direct command, and
gets the bytes there are (log entry 18). -/
def memRead (m : Memory) (addr n : Nat) : List Byte := (m.drop addr).take n

/-- The form of a legal buffer: its length is at most `MAX_CALLDATA` (R11, R24). -/
abbrev Memory.wf (m : Memory) : Prop := m.length ≤ Config.maxCalldata

/-- The buffer as address and byte pairs, addresses rising from 0. -/
def Memory.cells (m : Memory) : List Host.Cell := m.zipIdx.map fun p => (p.2, p.1)

end Sys2Proof.Machine
end

