-- ==== Sys2Proof/Syntax.lean ====
section
/-! DEFINITION. Syntax.lean: requests, the five instructions, and the request texts of R64. -/

namespace Sys2Proof

/-- A request as it stands on the request port and in the latch `REQ` (R24, R31). `REQ.len` is the length of
`REQ.buf` (`Request.len`), so it is stored once. -/
structure Request where
  /-- `REQ.cmd`, the command code (R56). -/
  cmd : BitVec 2
  /-- `REQ.buf`, the call buffer (CALL only). -/
  buf : Machine.Memory
  /-- `REQ.a`, first operand of a direct command. -/
  a : Word
  /-- `REQ.b`, second operand of HASH2. -/
  b : Word
  deriving DecidableEq, Repr

/-- `REQ.len` (R24). -/
def Request.len (r : Request) : Nat := r.buf.len

/-- The instructions: one constructor per row of the opcode table (R56, R58). A CALL row's operand is its whole
payload, canonical or not (R51: bytes `4 .. REQ.len-1`); its argument words are read out of the payload by the
ABI decode of R98 to R100, which is a stage of the operation (R96). -/
inductive Instr where
  /-- `poseidon1(uint256)`, format `CALL_P1` (R52, R102). -/
  | poseidon1 (payload : List Byte)
  /-- `poseidon2(uint256,uint256)`, format `CALL_P2` (R52, R103). -/
  | poseidon2 (payload : List Byte)
  /-- `poseidonN(uint256[])`, format `CALL_PN` (R53, R54, R104). -/
  | poseidonN (payload : List Byte)
  /-- `HASH1 a` (R57, R105). -/
  | hash1 (a : Word)
  /-- `HASH2 a, b` (R57, R106). -/
  | hash2 (a b : Word)
  deriving DecidableEq, Repr

/-- The request texts of R64: the three signatures in canonical form, `CALL <hex bytes>` for any buffer, and the
two direct commands. -/
inductive RequestText where
  | poseidon1 (x : Word)
  | poseidon2 (a b : Word)
  | poseidonN (elems : List Word)
  | call (bytes : List Byte)
  | hash1 (a : Word)
  | hash2 (a b : Word)
  deriving DecidableEq, Repr

end Sys2Proof
end

