-- ==== Sys2Proof/WellFormed.lean ====
section
/-! DEFINITION. WellFormed.lean: the one check on an instruction, that its call buffer fits `MAX_CALLDATA`
(R11, R24). -/

namespace Sys2Proof

/-- The check against a largest buffer of `maxLen` bytes: the selector's 4 bytes and the payload fit. A direct
command has no buffer (R57). -/
def Instr.fits (maxLen : Nat) : Instr → Bool
  | .poseidon1 payload => decide (Config.selectorBytes + payload.length ≤ maxLen)
  | .poseidon2 payload => decide (Config.selectorBytes + payload.length ≤ maxLen)
  | .poseidonN payload => decide (Config.selectorBytes + payload.length ≤ maxLen)
  | .hash1 _ => true
  | .hash2 _ _ => true

/-- Well-formed on this block: fits `MAX_CALLDATA`. -/
abbrev Instr.WellFormed (i : Instr) : Prop := i.fits Config.maxCalldata = true

end Sys2Proof
end

