-- ==== Sys2Proof/Decode.lean ====
section
/-! DEFINITION. Decode.lean: from a request to an instruction or a named rejection (R56, R62, R63, R97), and the
encoders: of an instruction (`encode`) and of the canonical request texts of R64 (`RequestText.assemble`). -/

namespace Sys2Proof

open Machine

/-- Why a request selects no instruction. -/
inductive Reject where
  /-- A CALL whose buffer is shorter than 4 bytes (R62, R97): `InvalidSelector`. -/
  | bufferTooShort
  /-- A CALL whose selector is none of the three (R62, R97): `InvalidSelector`. -/
  | unknownSelector
  /-- Command code 3 (R63): reserved. -/
  | reservedCommand
  deriving DecidableEq, Repr

/-- The result of decoding. -/
inductive Decoded where
  | instr (i : Instr)
  | reject (r : Reject)
  deriving DecidableEq, Repr

/-- The selector stage of a CALL (R97): the first four bytes against the three constants, then the rest of the
buffer as the payload (R51). -/
def decodeCall (buf : Memory) : Decoded :=
  if buf.length < Config.selectorBytes then .reject .bufferTooShort
  else if be (memRead buf 0 4) = Config.selPoseidon1 then .instr (.poseidon1 (buf.drop 4))
  else if be (memRead buf 0 4) = Config.selPoseidon2 then .instr (.poseidon2 (buf.drop 4))
  else if be (memRead buf 0 4) = Config.selPoseidonN then .instr (.poseidonN (buf.drop 4))
  else .reject .unknownSelector

/-- Decoding, total on every request: the command codes of R56, the selectors of R58. -/
def decode (r : Request) : Decoded :=
  if r.cmd = 0#2 then decodeCall r.buf
  else if r.cmd = 1#2 then .instr (.hash1 r.a)
  else if r.cmd = 2#2 then .instr (.hash2 r.a r.b)
  else .reject .reservedCommand

/-- A CALL request of a buffer; the direct operands, which CALL ignores, are 0. -/
def callRequest (buf : Memory) : Request := ⟨0#2, buf, 0, 0⟩

/-- The encoder, from the formats of R51, R52, R53 and R57; what a command ignores is empty or 0. -/
def encode : Instr → Request
  | .poseidon1 payload => callRequest (beBytes 4 Config.selPoseidon1 ++ payload)
  | .poseidon2 payload => callRequest (beBytes 4 Config.selPoseidon2 ++ payload)
  | .poseidonN payload => callRequest (beBytes 4 Config.selPoseidonN ++ payload)
  | .hash1 a => ⟨1#2, [], a, 0⟩
  | .hash2 a b => ⟨2#2, [], a, b⟩

/-! ## Canonical payloads (R52, R53) -/

/-- Payload of `CALL_P1`: one big-endian word. -/
def abiEncode1 (x : Word) : List Byte := beBytes 32 x.toNat

/-- Payload of `CALL_P2`: `a`, then `b`. -/
def abiEncode2 (a b : Word) : List Byte := beBytes 32 a.toNat ++ beBytes 32 b.toNat

/-- Payload of `CALL_PN` (R53): the offset word 32, the count word, the elements. -/
def abiEncodeN (elems : List Word) : List Byte :=
  beBytes 32 32 ++ (beBytes 32 elems.length ++ elems.flatMap fun e => beBytes 32 e.toNat)

/-- The request a text of R64 stands for. -/
def RequestText.assemble : RequestText → Request
  | .poseidon1 x => encode (.poseidon1 (abiEncode1 x))
  | .poseidon2 a b => encode (.poseidon2 (abiEncode2 a b))
  | .poseidonN elems => encode (.poseidonN (abiEncodeN elems))
  | .call bytes => callRequest bytes
  | .hash1 a => encode (.hash1 a)
  | .hash2 a b => encode (.hash2 a b)

/-! ## The opcode table (R56 and opcode_table.json) -/

/-- One row of the opcode table: it selects a request whose key agrees with `value` on the bits of `mask`. -/
structure OpRow where
  mnemonic : String
  value : Nat
  mask : Nat
  deriving DecidableEq, Repr

/-- The five rows, letter for letter as the table has them. -/
def opTable : List OpRow :=
  [⟨"poseidon1", 0x005727d155, 0x3ffffffff⟩, ⟨"poseidon2", 0x006e9c433b, 0x3ffffffff⟩,
   ⟨"poseidonN", 0x00f653802b, 0x3ffffffff⟩, ⟨"HASH1", 0x100000000, 0x300000000⟩,
   ⟨"HASH2", 0x200000000, 0x300000000⟩]

/-- Whether a row selects a key. -/
def OpRow.selects (row : OpRow) (key : Nat) : Bool := key &&& row.mask == row.value

/-- The row of an instruction. -/
def Instr.row : Instr → OpRow
  | .poseidon1 _ => ⟨"poseidon1", 0x005727d155, 0x3ffffffff⟩
  | .poseidon2 _ => ⟨"poseidon2", 0x006e9c433b, 0x3ffffffff⟩
  | .poseidonN _ => ⟨"poseidonN", 0x00f653802b, 0x3ffffffff⟩
  | .hash1 _ => ⟨"HASH1", 0x100000000, 0x300000000⟩
  | .hash2 _ _ => ⟨"HASH2", 0x200000000, 0x300000000⟩

/-- The 34-bit decode key of R56, `(REQ.cmd << 32) | sel`; a CALL shorter than 4 bytes has none. R56 gives `sel` only
when `REQ.len >= 4`: for the other commands with a shorter buffer the low 32 bits are the model's choice (log entry 18,
DESIGN CHOICE): the number of the bytes there are. No row of such a command reads them, and the machine decodes by
`decode`, not by the key. -/
def Request.key? (r : Request) : Option Nat :=
  if r.cmd = 0#2 ∧ r.len < Config.selectorBytes then none
  else some (r.cmd.toNat <<< 32 ||| be (memRead r.buf 0 4))

/-- The request a 34-bit key stands for, every operand byte and operand word 0 (bits of `w` above 33 are no bits
of the key and are not read). The payload has the canonical length of `CALL_P1` for its selector, that of
`CALL_P2` otherwise. -/
def Request.ofKey (w : Nat) : Request :=
  { cmd := BitVec.ofNat 2 (w >>> 32)
    buf := beBytes 4 w ++ List.replicate (if w % 2 ^ 32 = Config.selPoseidon1 then 32 else 64) 0
    a := 0
    b := 0 }

/-- The instruction the decoder reads from a table word. -/
def decodeTableWord (nbits w : Nat) : Option Instr :=
  match decode (Request.ofKey (w % 2 ^ nbits)) with
  | .instr i => some i
  | .reject _ => none

end Sys2Proof
end

