-- ==== Sys2Proof/Machine/State.lean ====
section
/-! DEFINITION. Machine/State.lean: every piece of state the spec gives the block (R20 to R26), its input port
(R31, R32, R132), and the few fields that are the model's own (marked so). -/

namespace Sys2Proof.Machine

/-- The interface state of R25. -/
inductive Phase where
  /-- No transaction; a request may be accepted. -/
  | idle
  /-- A transaction is being computed. -/
  | busy
  /-- A response is being offered. -/
  | done
  deriving DecidableEq, Repr

/-- `pm.phase` of R21. -/
inductive PmPhase where
  /-- `PM_IDLE`. -/
  | pmIdle
  /-- `PM_FIRST`: the first permutation is running on `combined`. -/
  | pmFirst
  /-- `PM_SECOND`: the second permutation is running on `remixed`. -/
  | pmSecond
  /-- `PM_DONE`. -/
  | pmDone
  deriving DecidableEq, Repr

/-- The round engine's working registers (R20). -/
structure Pe where
  /-- `pe.x`: the original input of the current `hash_single`. -/
  x : Word
  /-- `pe.result`: the running value. -/
  result : Word
  /-- `pe.t`: the S-box's saved operand. -/
  t : Word
  /-- `pe.i`: the round index, 4 bits. -/
  i : BitVec 4
  deriving DecidableEq, Repr

/-- The pair mixer controller's registers (R21). -/
structure Pm where
  left : Word
  right : Word
  intermediate : Word
  phase : PmPhase
  deriving DecidableEq, Repr

/-- The array chainer sequencer's registers (R23). `ac.n` is the length of `ac.elem[0..ac.n)` (`Ac.n`), so it is
stored once. R23 gives `ac.n` and `ac.k` ranges and no widths: reset draws them in range (`Ac.unspecified`), every
decode and every fold stays in range, and the invariant holds the range (`Ac.InRange`; log entry 12). -/
structure Ac where
  /-- `ac.elem[0..ac.n)`: the decoded elements. -/
  elem : List Word
  /-- `ac.k`: the index of the next element to fold. -/
  k : Nat
  /-- `ac.acc`: the accumulator. -/
  acc : Word
  deriving DecidableEq, Repr

/-- `ac.n` (R23), the element count. -/
def Ac.n (ac : Ac) : Nat := ac.elem.length

/-- THE MODEL'S OWN: how much work the datapath has done so far, in the columns of R141. Nothing reads it but the
statements of R86, R95 and R141; the block has no counter a host can observe (R127, R130). Log entry 10. -/
structure Work where
  permutations : Nat
  rounds : Nat
  fadds : Nat
  fmuls : Nat
  /-- The other reductions (`combined`, `remixed`). -/
  mixes : Nat
  deriving DecidableEq, Repr

/-- The working registers of the three computing units, and the model's work count. -/
structure Datapath where
  pe : Pe
  pm : Pm
  ac : Ac
  work : Work
  deriving DecidableEq, Repr

/-- The response register `RSP` (R26). -/
structure Response where
  /-- `RSP.status`, 3 bits (R115). -/
  status : BitVec 3
  /-- `RSP.word`, a 32-byte sequence. -/
  word : Vector Byte 32
  /-- `RSP.info`, 256 bits (R116). -/
  info : Word
  deriving DecidableEq, Repr

/-- The levels of all input signals in one step: the request port of R31, `rsp_ready` of R32, `rst` of R132.
`req_len` and `req_buf` are separate inputs; that they agree is the host's duty (R139). -/
structure Pins where
  rst : Bool
  reqValid : Bool
  reqCmd : BitVec 2
  reqLen : Nat
  reqBuf : List Byte
  reqA : Word
  reqB : Word
  rspReady : Bool
  deriving DecidableEq, Repr

/-- The host drives nothing: no reset, no request, no readiness for a response. -/
def Pins.quiet : Pins := ⟨false, false, 0, 0, [], 0, 0, false⟩

/-- The state of the block. -/
structure State where
  /-- `phase` (R25). -/
  phase : Phase
  /-- `REQ` (R24), the latched request; `REQ.buf` is the block's one memory (R30). -/
  req : Request
  /-- `RSP` (R26). -/
  rsp : Response
  /-- The working registers (R20, R21, R23). -/
  dp : Datapath
  /-- `rst` was 1 in the step before this one, so this step is the one in which it is released, if it is 0 now
  (R132 distinguishes that step). -/
  rstHeld : Bool
  /-- THE MODEL'S OWN: how many more steps the transaction stays BUSY before the step that sets RSP (R109, R13).
  Loaded from `Config.latency` at acceptance. -/
  busyLeft : Nat
  /-- THE MODEL'S OWN: how many free values have been drawn. -/
  draws : Nat
  /-- The input signals of the coming steps, the next step's first; after the last one the host drives
  `Pins.quiet` (log entry 6). -/
  host : List Pins
  /-- THE MODEL'S OWN: the observation of R142, the (request, response) pairs delivered so far, oldest first. -/
  observed : List (Request × Response)
  deriving DecidableEq, Repr

/-- The reasons of a fault: NONE. The taxonomy of R112 is closed and every error is a response, not a stop ("none
stops, hangs or resets the block"), and `MemRead` is never out of bounds (R18). Safe: the type has no value, so no
definition can raise one. -/
inductive Fault
  deriving DecidableEq, Repr

/-- The reasons of a refusal. -/
inductive Refusal where
  /-- An instruction without a meaning yet; raised by no arm of `exec`. Safe. -/
  | notModelled (mnemonic : String)
  /-- `req_cmd = 3` (R63, R139), raised by the accept step, and by the compute step should REQ hold it (R107).
  Safe: no claim about such a request can be proved. -/
  | reservedCommand
  /-- `req_len > MAX_CALLDATA` (R139), raised by the accept step. Safe. -/
  | calldataTooLong
  /-- `req_buf` does not hold exactly `req_len` bytes (R139), raised by the accept step. Safe. -/
  | bufferLengthMismatch
  deriving DecidableEq, Repr

/-! ## Reset values (R35). "Unspecified" is a free draw of `Config`, indexed by the draw counter `k` and, for the
scalar registers, by a number of their own. -/

/-- `REQ` after reset: unspecified, within the ranges of R24. -/
def Request.unspecified (k : Nat) : Request :=
  { cmd := BitVec.ofNat 2 (Config.freeNat (16 * k))
    buf := (Config.freeBytes k).take Config.maxCalldata
    a := BitVec.ofNat 256 (Config.freeNat (16 * k + 1))
    b := BitVec.ofNat 256 (Config.freeNat (16 * k + 2)) }

/-- `RSP` after reset: unspecified. -/
def Response.unspecified (k : Nat) : Response :=
  { status := BitVec.ofNat 3 (Config.freeNat (16 * k + 3))
    word := Config.freeResponseWord k
    info := BitVec.ofNat 256 (Config.freeNat (16 * k + 4)) }

/-- The largest `ac.k` beside the elements `elem` after reset (R23: `1 .. ac.n`). Without elements that range is empty
and the capacity of the registers bounds the draw. -/
def Ac.lastIndex (elem : List Word) : Nat := if elem = [] then max 1 Config.maxN else elem.length

/-- The chainer's registers after reset: unspecified, within the ranges of R23: at most `MAX_N` elements, `ac.k` from
1 on. -/
def Ac.unspecified (k : Nat) : Ac :=
  { elem := (Config.freeWords k).take Config.maxN
    k := 1 + Config.freeNat (16 * k + 12) % Ac.lastIndex ((Config.freeWords k).take Config.maxN)
    acc := BitVec.ofNat 256 (Config.freeNat (16 * k + 13)) }

/-- The working registers after reset: all unspecified but `pm.phase = PM_IDLE`. The model's work count is no
register of the block and is handed through. -/
def Datapath.unspecified (k : Nat) (work : Work) : Datapath :=
  { pe :=
      { x := BitVec.ofNat 256 (Config.freeNat (16 * k + 5))
        result := BitVec.ofNat 256 (Config.freeNat (16 * k + 6))
        t := BitVec.ofNat 256 (Config.freeNat (16 * k + 7))
        i := BitVec.ofNat 4 (Config.freeNat (16 * k + 8)) }
    pm :=
      { left := BitVec.ofNat 256 (Config.freeNat (16 * k + 9))
        right := BitVec.ofNat 256 (Config.freeNat (16 * k + 10))
        intermediate := BitVec.ofNat 256 (Config.freeNat (16 * k + 11))
        phase := .pmIdle }
    ac := Ac.unspecified k
    work := work }

/-- The state right after reset (R35, R132): `phase = IDLE`, `pm.phase = PM_IDLE`, every other register a free
draw; the reset is over, and no host input is scheduled. -/
def State.reset : State :=
  { phase := .idle
    req := Request.unspecified 0
    rsp := Response.unspecified 0
    dp := Datapath.unspecified 0 ⟨0, 0, 0, 0, 0⟩
    rstHeld := false
    busyLeft := 0
    draws := 1
    host := []
    observed := [] }

end Sys2Proof.Machine
end

