-- ==== Sys2Proof/Machine/Flags.lean ====
section
/-! DEFINITION. Machine/Flags.lean: the block has no flags (R27); the only outcome a host can test is
`RSP.status`. This file holds the four errors of R112 with their status codes and information words. -/

namespace Sys2Proof.Machine

/-- The reason of an `AbiDecodeError` (R114). -/
inductive AbiReason where
  /-- `ABI_SHORT`: the payload is shorter than its fixed words. -/
  | short
  /-- `ABI_OFFSET`: the count word lies outside the payload. -/
  | offset
  /-- `ABI_LENGTH`: the elements lie outside the payload. -/
  | length
  /-- `ABI_NONCANONICAL`: `ABI_STRICT = true` only. -/
  | nonCanonical
  deriving DecidableEq, Repr

/-- The reason code of R114. -/
def AbiReason.code : AbiReason → Nat
  | .short => 1
  | .offset => 2
  | .length => 3
  | .nonCanonical => 4

/-- The closed error taxonomy of R112. -/
inductive Raised where
  /-- R113. -/
  | invalidSelector
  /-- R114. -/
  | abiDecodeError (why : AbiReason)
  /-- R117, with the offending value. -/
  | fieldElementTooLarge (value : Word)
  /-- R118, with the length. -/
  | invalidInputLength (n : Nat)
  deriving DecidableEq, Repr

/-- Status code 0, `OK` (R115). -/
def statusOk : BitVec 3 := 0

/-- `code(E)` of R115. -/
def Raised.code : Raised → BitVec 3
  | .invalidSelector => 1
  | .abiDecodeError _ => 2
  | .fieldElementTooLarge _ => 3
  | .invalidInputLength _ => 4

/-- The information word of R116. -/
def Raised.info : Raised → Word
  | .invalidSelector => 0
  | .abiDecodeError why => BitVec.ofNat 256 why.code
  | .fieldElementTooLarge value => value
  | .invalidInputLength n => BitVec.ofNat 256 n

end Sys2Proof.Machine
end

