-- ==== Sys2Proof/Machine/Field.lean ====
section
/-! DEFINITION. Machine/Field.lean: the field validator and the field reduction (40_field_validator.md). -/

namespace Sys2Proof.Machine

/-- `validate(x)` (R65). -/
def validate (x : Word) : Except Raised Word :=
  if x.toNat < Config.P then .ok x else .error (.fieldElementTooLarge x)

/-- `reduce(v)` (R68), on exact naturals. -/
def reduce (v : Nat) : Nat := v % Config.P

/-- `fadd(a, b)` (R69): exact sum, then reduced. -/
def fadd (a b : Nat) : Nat := reduce (a + b)

/-- `fmul(a, b)` (R69): exact product, then reduced. -/
def fmul (a b : Nat) : Nat := reduce (a * b)

/-- `to_internal` (R67, D16): the residue of a field element is the integer itself. -/
def toInternal (x : Word) : Nat := x.toNat

/-- `to_external` (R67, D16): a residue below `P` fits a 256-bit word. -/
def toExternal (r : Nat) : Word := BitVec.ofNat 256 r

end Sys2Proof.Machine
end

