-- ==== Sys2Proof/Machine/Hash.lean ====
section
/-! DEFINITION. Machine/Hash.lean: the hash functions as the pseudocode of R71, R83 and R89 writes them, on exact
naturals. The units' register sequences stand in Engine.lean, PairMixer.lean and Chainer.lean. -/

namespace Sys2Proof.Machine

/-- `rc(x, i)` (R72): `2^(i+1) XOR x`, neither reduced nor validated. -/
def rc (x i : Nat) : Nat := 2 ^ (i + 1) ^^^ x

/-- `sbox(r)` (R74): two squarings and one multiply, in this order. -/
def sbox (r : Nat) : Nat := fmul (fmul (fmul r r) (fmul r r)) r

/-- `round(result, x, i)` (R75): the round-constant addition of R73, then the S-box. -/
def round (result x i : Nat) : Nat := sbox (fadd result (rc x i))

/-- The first `n` rounds of `hash_single(x)` (R71), `i = 0 .. n-1` in this order. -/
def roundsUpTo (x : Nat) : Nat → Nat
  | 0 => x
  | n + 1 => round (roundsUpTo x n) x n

/-- `hash_single(x)` (R71). -/
def hashSingle (x : Nat) : Nat := roundsUpTo x Config.fullRounds

/-- `hash_pair(left, right)` (R83). -/
def hashPair (left right : Nat) : Nat :=
  hashSingle (reduce (3 * left + 5 * right + hashSingle (reduce (left + right + 1))))

/-- The validation loop of R89 and R91: every element in index order, the first that fails is raised. -/
def validateAll : List Word → Except Raised Unit
  | [] => .ok ()
  | e :: es =>
    match validate e with
    | .error r => .error r
    | .ok _ => validateAll es

/-- The fold of R89: the accumulator is `left`, the element is `right`. -/
def foldPairs (acc : Nat) (elems : List Word) : Nat :=
  elems.foldl (fun acc e => hashPair acc e.toNat) acc

/-- `hash_array(e[0..n))` (R89): empty check, then validation, then the left fold. -/
def hashArray : List Word → Except Raised Nat
  | [] => .error (.invalidInputLength 0)
  | e :: es =>
    match validateAll (e :: es) with
    | .error r => .error r
    | .ok _ => .ok (foldPairs e.toNat es)

end Sys2Proof.Machine
end

