-- ==== Sys2Proof/Machine/Engine.lean ====
section
/-! DEFINITION. Machine/Engine.lean: the Poseidon permutation round engine, register by register (R72 to R77). -/

namespace Sys2Proof.Machine

/-- Start (R76): `pe.x <- x`, `pe.result <- x`, `pe.i <- 0`. -/
def Datapath.peStart (x : Word) (d : Datapath) : Datapath :=
  { d with
    pe := { d.pe with x := x, result := x, i := 0 }
    work := { d.work with permutations := d.work.permutations + 1 } }

/-- Round-constant addition (R73): `pe.result <- fadd(pe.result, rc(pe.x, pe.i))`. -/
def Datapath.peAddConstant (d : Datapath) : Datapath :=
  { d with
    pe := { d.pe with
      result := toExternal (fadd (toInternal d.pe.result) (rc (toInternal d.pe.x) d.pe.i.toNat)) }
    work := { d.work with fadds := d.work.fadds + 1 } }

/-- One multiply of the S-box into `pe.result`. -/
def Datapath.peMul (a b : Word) (d : Datapath) : Datapath :=
  { d with
    pe := { d.pe with result := toExternal (fmul (toInternal a) (toInternal b)) }
    work := { d.work with fmuls := d.work.fmuls + 1 } }

/-- The S-box's first assignment (R74): `pe.t <- pe.result`. -/
def Datapath.peSave (d : Datapath) : Datapath :=
  { d with pe := { d.pe with t := d.pe.result } }

/-- The squaring of R74: `pe.result <- fmul(pe.t, pe.t)`. -/
def Datapath.peSquareSaved (d : Datapath) : Datapath := d.peMul d.pe.t d.pe.t

/-- The second squaring of R74: `pe.result <- fmul(pe.result, pe.result)`. -/
def Datapath.peSquareResult (d : Datapath) : Datapath := d.peMul d.pe.result d.pe.result

/-- The last multiply of R74: `pe.result <- fmul(pe.result, pe.t)`. -/
def Datapath.peMulSaved (d : Datapath) : Datapath := d.peMul d.pe.result d.pe.t

/-- The power-5 S-box (R74), its four assignments in order. -/
def Datapath.peSbox (d : Datapath) : Datapath :=
  d.peSave.peSquareSaved.peSquareResult.peMulSaved

/-- The round counter: `pe.i <- pe.i + 1` (R77). -/
def Datapath.peNext (d : Datapath) : Datapath :=
  { d with
    pe := { d.pe with i := d.pe.i + 1 }
    work := { d.work with rounds := d.work.rounds + 1 } }

/-- One step of the round sequencer (R77): R73, then R74, then the counter. -/
def Datapath.peRound (d : Datapath) : Datapath := d.peAddConstant.peSbox.peNext

/-- Rounds while `pe.i < FULL_ROUNDS` (R77), at most `fuel` of them. -/
def Datapath.peLoop : Nat → Datapath → Datapath
  | 0, d => d
  | fuel + 1, d => if d.pe.i.toNat < Config.fullRounds then Datapath.peLoop fuel d.peRound else d

/-- A whole run of the engine on `x` (R76, R77); its output is `pe.result`. -/
def Datapath.peRun (x : Word) (d : Datapath) : Datapath :=
  Datapath.peLoop Config.fullRounds (d.peStart x)

end Sys2Proof.Machine
end

