-- ==== Sys2Proof/Machine/PairMixer.lean ====
section
/-! DEFINITION. Machine/PairMixer.lean: the pair mixer controller's sequence (R84). -/

namespace Sys2Proof.Machine

/-- The model's count of one more reduction outside `fadd` and `fmul` (R141). -/
def Datapath.countMix (d : Datapath) : Datapath :=
  { d with work := { d.work with mixes := d.work.mixes + 1 } }

/-- Step 1 of R84: latch the operands, enter `PM_FIRST`, run the engine on `combined`. -/
def Datapath.pmFirst (left right : Word) (d : Datapath) : Datapath :=
  Datapath.peRun (toExternal (reduce (toInternal left + toInternal right + 1)))
    { d with pm := { d.pm with left := left, right := right, phase := .pmFirst } }.countMix

/-- `remixed` of R84, step 2, from the latched operands and the first output. -/
def Datapath.pmRemixed (d : Datapath) : Word :=
  toExternal (reduce (3 * toInternal d.pm.left + 5 * toInternal d.pm.right + toInternal d.pm.intermediate))

/-- The register writes of step 2 of R84: keep the first output, enter `PM_SECOND`. -/
def Datapath.pmKeep (d : Datapath) : Datapath :=
  { d with pm := { d.pm with intermediate := d.pe.result, phase := .pmSecond } }

/-- Step 2 of R84: keep the first output, run the engine on `remixed`. -/
def Datapath.pmSecond (d : Datapath) : Datapath :=
  Datapath.peRun d.pmKeep.pmRemixed d.pmKeep.countMix

/-- Step 3 of R84: the output stands in `pe.result`; `pm.phase <- PM_DONE`. -/
def Datapath.pmFinish (d : Datapath) : Datapath :=
  { d with pm := { d.pm with phase := .pmDone } }

/-- The caller takes the output: the controller returns to `PM_IDLE` (R84). -/
def Datapath.pmTake (d : Datapath) : Datapath :=
  { d with pm := { d.pm with phase := .pmIdle } }

/-- A whole run of the controller on `(left, right)`, up to the taking of its output, `pe.result`. -/
def Datapath.pmRun (left right : Word) (d : Datapath) : Datapath :=
  (d.pmFirst left right).pmSecond.pmFinish.pmTake

end Sys2Proof.Machine
end

