-- ==== Sys2Proof/Machine/Chainer.lean ====
section
/-! DEFINITION. Machine/Chainer.lean: the array chainer sequencer's sequence (R92, R104). -/

namespace Sys2Proof.Machine

/-- The decoded elements are loaded: `ac.elem[0..n) <- e`, `ac.n <- n` (R104). -/
def Datapath.acLoad (elems : List Word) (d : Datapath) : Datapath :=
  { d with ac := { d.ac with elem := elems } }

/-- `ac.elem[k]`; every use has `k < ac.n`. -/
def Ac.at (ac : Ac) (k : Nat) : Word := ac.elem.getD k 0

/-- After validation (R92): `ac.acc <- ac.elem[0]`, `ac.k <- 1`. -/
def Datapath.acStart (d : Datapath) : Datapath :=
  { d with ac := { d.ac with acc := d.ac.at 0, k := 1 } }

/-- `ac.acc <-` the mixer's output, `ac.k <- ac.k + 1` (R92). -/
def Datapath.acTake (d : Datapath) : Datapath :=
  { d with ac := { d.ac with acc := d.pe.result, k := d.ac.k + 1 } }

/-- One fold step (R92): the mixer on `(ac.acc, ac.elem[ac.k])`, then its output taken. -/
def Datapath.acFold (d : Datapath) : Datapath :=
  (d.pmRun d.ac.acc (d.ac.at d.ac.k)).acTake

/-- Fold steps while `ac.k < ac.n` (R92), at most `fuel` of them. -/
def Datapath.acLoop : Nat → Datapath → Datapath
  | 0, d => d
  | fuel + 1, d => if d.ac.k < d.ac.n then Datapath.acLoop fuel d.acFold else d

/-- The whole fold over the loaded, validated elements; the output is `ac.acc`. -/
def Datapath.acRun (d : Datapath) : Datapath := Datapath.acLoop d.ac.n d.acStart

end Sys2Proof.Machine
end

