-- ==== Sys2Proof/Machine/Operands.lean ====
section
/-! DEFINITION. Machine/Operands.lean: the operand forms: the payload words and the ABI decode of R98 to R100. -/

namespace Sys2Proof.Machine

/-- `word(k)` (R40, R60): the 32 bytes at payload offset `k`, big-endian; no alignment is asked of `k` (R44). -/
def payloadWord (payload : List Byte) (k : Nat) : Word :=
  BitVec.ofNat 256 (be (memRead payload k 32))

/-- `DecodeP1` (R98). -/
def decodeP1 (strict : Bool) (payload : List Byte) : Except Raised Word :=
  if payload.length < 32 then .error (.abiDecodeError .short)
  else if payload.length ≠ 32 ∧ strict = true then .error (.abiDecodeError .nonCanonical)
  else .ok (payloadWord payload 0)

/-- `DecodeP2` (R98). -/
def decodeP2 (strict : Bool) (payload : List Byte) : Except Raised (Word × Word) :=
  if payload.length < 64 then .error (.abiDecodeError .short)
  else if payload.length ≠ 64 ∧ strict = true then .error (.abiDecodeError .nonCanonical)
  else .ok (payloadWord payload 0, payloadWord payload 32)

/-- The elements of R99: `e[k] = word(o + 32 + 32 k)` for `k` in `0 .. n-1`. -/
def arrayElems (payload : List Byte) (o n : Nat) : List Word :=
  (List.range n).map fun k => payloadWord payload (o + 32 + 32 * k)

/-- `DecodePN` (R99) with `StrictPN` (R100): exact arithmetic on the offset `o` and the count `n`, no wrap (D12),
and no alignment of `o`. -/
def decodePN (strict : Bool) (payload : List Byte) : Except Raised (List Word) :=
  if payload.length < 32 then .error (.abiDecodeError .short)
  else
    let o := (payloadWord payload 0).toNat
    if o + 32 > payload.length then .error (.abiDecodeError .offset)
    else
      let n := (payloadWord payload o).toNat
      if o + 32 + 32 * n > payload.length then .error (.abiDecodeError .length)
      else if (o ≠ 32 ∨ payload.length ≠ 64 + 32 * n) ∧ strict = true then
        .error (.abiDecodeError .nonCanonical)
      else .ok (arrayElems payload o n)

/-- The most elements `decodePN` can answer from a call buffer of at most `MAX_CALLDATA` bytes, so the range of
`ac.n`: `MAX_N` (R23) in strict mode, whose offset word is 32 (R100). Otherwise the least offset word with elements
behind it is 1 (an offset word 0 is itself the count word), and the checks of R99 let at most one element more pass:
log entry 12. -/
def maxElements (strict : Bool) : Nat := if strict then Config.maxN else (Config.maxCalldata - 37) / 32

end Sys2Proof.Machine
end

