-- ==== Sys2Proof/Machine/Ops.lean ====
section
/-! DEFINITION. Machine/Ops.lean: the shared operations on the state: how a transaction ends (R107, R111, R121),
the accept and deliver steps (R108, R110), reset (R132), and the three shapes of computation. -/

namespace Sys2Proof.Machine

/-! ## Inputs -/

/-- The input signals of this step. -/
def State.pins (s : State) : Pins := s.host.headD .quiet

/-- The host's schedule moves on by one step. -/
def State.advance (s : State) : State := { s with host := s.host.tail }

/-- `req_ready` (R31). -/
def State.reqReady (s : State) : Bool := s.phase == .idle

/-- `rsp_valid` (R32). -/
def State.rspValid (s : State) : Bool := s.phase == .done

/-! ## The end of a transaction -/

/-- Success (R55, R107, R111): `RSP <- (OK, be32(v), 0)`, `phase <- DONE`. -/
def State.complete (v : Word) (s : State) : State :=
  { s with rsp := ⟨statusOk, be32 v, 0⟩, phase := .done }

/-- `raise E(info)` (R18, R121), the block's one way into an error: `RSP <- (code(E), any, info)`,
`phase <- DONE`; nothing is saved, no mode changes, no handler is entered. The word is a free draw. -/
def State.raise (e : Raised) (s : State) : State :=
  { s with
    rsp := ⟨e.code, Config.freeResponseWord s.draws, e.info⟩
    phase := .done
    draws := s.draws + 1 }

/-- The datapath is replaced. -/
def State.setDp (d : Datapath) (s : State) : State := { s with dp := d }

/-! ## The computation shapes: validate (R65), run the unit, end the transaction -/

/-- `hash_single(validate(x))` (R102, R105). -/
def State.runSingle (x : Word) (s : State) : State :=
  match validate x with
  | .error e => s.raise e
  | .ok v => (s.setDp (s.dp.peRun v)).complete (s.dp.peRun v).pe.result

/-- `hash_pair(validate(a), validate(b))`, `a` first (R103, R106). -/
def State.runPair (a b : Word) (s : State) : State :=
  match validate a with
  | .error e => s.raise e
  | .ok left =>
    match validate b with
    | .error e => s.raise e
    | .ok right => (s.setDp (s.dp.pmRun left right)).complete (s.dp.pmRun left right).pe.result

/-- `hash_array(e)` on the elements already loaded (R89 to R92): the empty check, the validation of every element,
the fold. -/
def State.runLoaded (s : State) : State :=
  if s.dp.ac.n = 0 then s.raise (.invalidInputLength s.dp.ac.n)
  else
    match validateAll s.dp.ac.elem with
    | .error e => s.raise e
    | .ok _ => (s.setDp s.dp.acRun).complete s.dp.acRun.ac.acc

/-- `poseidonN(e) = hash_array(e)` (R104): load `ac.elem` and `ac.n`, then `hash_array`. -/
def State.runArray (elems : List Word) (s : State) : State :=
  (s.setDp (s.dp.acLoad elems)).runLoaded

/-- What follows an ABI decode (R96, R101): its error ends the transaction, its result is computed on. -/
def State.afterDecode {α : Type} (decoded : Except Raised α) (run : α → State → State) (s : State) : State :=
  match decoded with
  | .error e => s.raise e
  | .ok args => run args s

/-! ## The interface steps -/

/-- The request on the port (R31). -/
def Pins.request (p : Pins) : Request := ⟨p.reqCmd, p.reqBuf, p.reqA, p.reqB⟩

/-- Latching (R108): `REQ <- (req_cmd, req_buf, req_a, req_b)`, `phase <- BUSY`; the transaction's latency is
drawn. -/
def State.latch (r : Request) (s : State) : State :=
  { s with req := r, phase := .busy, busyLeft := Config.latency s.draws, draws := s.draws + 1 }

/-- The accept step (R108). A request that breaks a duty of the host is refused (R63, R139). -/
def State.accept (p : Pins) (s : State) : Host.Outcome State Fault Refusal :=
  if p.reqCmd = 3#2 then .refused .reservedCommand
  else if p.reqLen > Config.maxCalldata then .refused .calldataTooLong
  else if p.reqBuf.length ≠ p.reqLen then .refused .bufferLengthMismatch
  else .next (s.latch p.request)

/-- The deliver step (R110, R122): the host takes the response, `phase <- IDLE`; nothing else of the block
changes. -/
def State.deliver (s : State) : State :=
  { s with phase := .idle, observed := s.observed ++ [(s.req, s.rsp)] }

/-- A step with `rst = 1`, or the step that releases it (R35, R132): every state element takes its reset value.
`held` is the level of `rst` in this step. -/
def State.enterReset (held : Bool) (s : State) : State :=
  { s with
    phase := .idle
    req := Request.unspecified s.draws
    rsp := Response.unspecified s.draws
    dp := Datapath.unspecified s.draws s.dp.work
    rstHeld := held
    busyLeft := 0
    draws := s.draws + 1 }

/-- One of the internal steps of a BUSY transaction before the step that sets RSP (R109). -/
def State.stayBusy (s : State) : State := { s with busyLeft := s.busyLeft - 1 }

end Sys2Proof.Machine
end

