-- ==== Sys2Proof/Machine/Calls.lean ====
section
/-! DEFINITION. Machine/Calls.lean: the three CALL operations (R96 stages 2 to 5, R102 to R104), for any payload
and for both settings of `ABI_STRICT`. -/

namespace Sys2Proof.Machine

/-- `poseidon1` on a payload: `DecodeP1`, `validate`, `hash_single` (R102). -/
def poseidon1Ends (strict : Bool) (payload : List Byte) (s : State) : State :=
  s.afterDecode (decodeP1 strict payload) fun x t => t.runSingle x

/-- `poseidon2` on a payload: `DecodeP2`, `validate` of `a`, of `b`, `hash_pair` (R103). -/
def poseidon2Ends (strict : Bool) (payload : List Byte) (s : State) : State :=
  s.afterDecode (decodeP2 strict payload) fun ab t => t.runPair ab.1 ab.2

/-- `poseidonN` on a payload: `DecodePN`, load, `hash_array` (R104). -/
def poseidonNEnds (strict : Bool) (payload : List Byte) (s : State) : State :=
  s.afterDecode (decodePN strict payload) fun elems t => t.runArray elems

/-- The meaning of poseidon1. -/
def execPoseidon1 (payload : List Byte) (s : State) : Host.Outcome State Fault Refusal :=
  .next (poseidon1Ends Config.abiStrict payload s)

/-- The meaning of poseidon2. -/
def execPoseidon2 (payload : List Byte) (s : State) : Host.Outcome State Fault Refusal :=
  .next (poseidon2Ends Config.abiStrict payload s)

/-- The meaning of poseidonN. -/
def execPoseidonN (payload : List Byte) (s : State) : Host.Outcome State Fault Refusal :=
  .next (poseidonNEnds Config.abiStrict payload s)

end Sys2Proof.Machine
end

