-- ==== Sys2Proof/Machine/Direct.lean ====
section
/-! DEFINITION. Machine/Direct.lean: the two direct commands (R105, R106). -/

namespace Sys2Proof.Machine

/-- The meaning of `HASH1 a` (R105): `hash_single(validate(a))`. -/
def execHash1 (a : Word) (s : State) : Host.Outcome State Fault Refusal := .next (s.runSingle a)

/-- The meaning of `HASH2 a, b` (R106): `hash_pair(validate(a), validate(b))`, `a` validated first. -/
def execHash2 (a b : Word) (s : State) : Host.Outcome State Fault Refusal := .next (s.runPair a b)

end Sys2Proof.Machine
end

