-- ==== Sys2Proof/Machine/Dispatch.lean ====
section
/-! DEFINITION. Machine/Dispatch.lean: one arm per instruction. -/

namespace Sys2Proof.Machine

def exec (i : Instr) (s : State) : Host.Outcome State Fault Refusal :=
  match i with
  | .poseidon1 payload => Sys2Proof.Machine.execPoseidon1 payload s
  | .poseidon2 payload => Sys2Proof.Machine.execPoseidon2 payload s
  | .poseidonN payload => Sys2Proof.Machine.execPoseidonN payload s
  | .hash1 a => Sys2Proof.Machine.execHash1 a s
  | .hash2 a b => Sys2Proof.Machine.execHash2 a b s

end Sys2Proof.Machine
end

