-- ==== Sys2Proof/Machine/Step.lean ====
section
/-! DEFINITION. Machine/Step.lean: one step of the block: reset first (R132), then the interface state machine of
R108 to R110. -/

namespace Sys2Proof.Machine

/-- The step that ends the computing of a transaction (R96 stage 1, R107, R109): the latched request is decoded and
its operation runs; a request without an instruction raises `InvalidSelector` (R97) or is refused (R63). -/
def compute (s : State) : Host.Outcome State Fault Refusal :=
  match decode s.req with
  | .instr i => exec i s
  | .reject .bufferTooShort => .next (s.raise .invalidSelector)
  | .reject .unknownSelector => .next (s.raise .invalidSelector)
  | .reject .reservedCommand => .refused .reservedCommand

/-- The step out of reset, by phase, with the pins `p` sampled (R108 to R110, R131). -/
def stepPhase (p : Pins) (s : State) : Host.Outcome State Fault Refusal :=
  match s.phase with
  | .idle => if p.reqValid then s.accept p else .next s
  | .busy => if s.busyLeft = 0 then compute s else .next s.stayBusy
  | .done => .next (if p.rspReady then s.deliver else s)

/-- One step: it samples this step's input signals and moves the host's schedule on. -/
def step (s : State) : Host.Outcome State Fault Refusal :=
  if s.pins.rst then .next (s.advance.enterReset true)
  else if s.rstHeld then .next (s.advance.enterReset false)
  else stepPhase s.pins s.advance

/-- `s` with a request latched and about to be computed, so that the very next step runs it: `REQ` holds it,
`phase = BUSY`, no further latency, no reset in the next step. This stands for the host's offer and the accept
step (log entry 7). -/
def State.withRequest (s : State) (r : Request) : State :=
  { s with
    phase := .busy
    req := r
    rstHeld := false
    busyLeft := 0
    host := s.host.modifyHead fun p => { p with rst := false } }

/-- `s` with the request of a table word placed where the next step takes its instruction. -/
def State.withFetchWord (s : State) (nbits w : Nat) : State :=
  s.withRequest (Request.ofKey (w % 2 ^ nbits))

end Sys2Proof.Machine
end

