-- ==== Sys2Proof/Machine/Platform.lean ====
section
/-! DEFINITION. Machine/Platform.lean: any number of copies of the block (R14, R129). They share no state and do not
communicate; a step of the platform is a step of one copy, in any order the platform's environment picks. -/

namespace Sys2Proof.Machine

/-- The copies on a platform; `INSTANCES` is the length of the list. -/
structure Platform where
  blocks : List State
  deriving DecidableEq, Repr

/-- Copy `k` takes one step; `none` when there is no such copy or its step does not answer a next state. -/
def Platform.stepAt (p : Platform) (k : Nat) : Option Platform :=
  match p.blocks[k]? with
  | none => none
  | some s =>
    match step s with
    | .next t => some ⟨p.blocks.set k t⟩
    | .fault _ => none
    | .refused _ => none

/-- The platform after the copies named in a list have stepped in that order. -/
def Platform.runOrder (p : Platform) : List Nat → Option Platform
  | [] => some p
  | k :: ks =>
    match p.stepAt k with
    | none => none
    | some q => q.runOrder ks

end Sys2Proof.Machine
end

