-- ==== Sys2Proof/Machine/Respond.lean ====
section
/-! DEFINITION. Machine/Respond.lean: the pure functions `Dispatch` (R96) and `Respond` (R107), over the hash
functions of Hash.lean. The step does not call them: it runs the units' registers. That both give the same response
is a statement. -/

namespace Sys2Proof.Machine

/-- `poseidon1(x)` and `HASH1(x)` (R102, R105). -/
def single (x : Word) : Except Raised Nat :=
  match validate x with
  | .error e => .error e
  | .ok v => .ok (hashSingle v.toNat)

/-- `poseidon2(a, b)` and `HASH2(a, b)` (R103, R106). -/
def pair (a b : Word) : Except Raised Nat :=
  match validate a with
  | .error e => .error e
  | .ok left =>
    match validate b with
    | .error e => .error e
    | .ok right => .ok (hashPair left.toNat right.toNat)

/-- What an instruction's operation returns or raises (R96 stages 2 to 4, R102 to R106). -/
def outcome (strict : Bool) : Instr → Except Raised Nat
  | .poseidon1 payload =>
    match decodeP1 strict payload with
    | .error e => .error e
    | .ok x => single x
  | .poseidon2 payload =>
    match decodeP2 strict payload with
    | .error e => .error e
    | .ok ab => pair ab.1 ab.2
  | .poseidonN payload =>
    match decodePN strict payload with
    | .error e => .error e
    | .ok elems => hashArray elems
  | .hash1 a => single a
  | .hash2 a b => pair a b

/-- `Respond(REQ)` before its encoding (R107): `none` is REFUSED, otherwise a result or a raised error. -/
def respond (strict : Bool) (r : Request) : Option (Except Raised Nat) :=
  match decode r with
  | .instr i => some (outcome strict i)
  | .reject .bufferTooShort => some (.error .invalidSelector)
  | .reject .unknownSelector => some (.error .invalidSelector)
  | .reject .reservedCommand => none

/-- A response word, status and information agree with an outcome (R107): the word is `be32(v)` on success and
anything on an error. -/
def Response.Encodes (p : Response) : Except Raised Nat → Prop
  | .ok v => p.status = statusOk ∧ p.word = be32 (toExternal v) ∧ p.info = 0
  | .error e => p.status = e.code ∧ p.info = e.info

/-- A response answers a request: `Respond` gives an outcome, and the response encodes it. -/
def Response.Answers (strict : Bool) (p : Response) (r : Request) : Prop :=
  ∃ o, respond strict r = some o ∧ p.Encodes o

end Sys2Proof.Machine
end

