-- ==== Sys2Proof/Safety.lean ====
section
/-! DEFINITION. Safety.lean: what counts as a safe run, and the invariant of the block. -/

namespace Sys2Proof.Machine

/-- The host keeps its duties of R139 in one step: what it offers has a command code below 3, a length of at most
`MAX_CALLDATA`, and exactly that many bytes. -/
def Pins.Dutiful (p : Pins) : Prop :=
  p.reqValid = true → p.reqCmd ≠ 3#2 ∧ p.reqLen ≤ Config.maxCalldata ∧ p.reqBuf.length = p.reqLen

/-- The latched request is one the accept step lets in (R24, R63). -/
def Request.Legal (r : Request) : Prop := r.cmd ≠ 3#2 ∧ Memory.wf r.buf

/-- The chainer's registers are in their ranges between steps (R23): the element count within what a decode can
answer (`MAX_N`, and one more where log entry 12 says), `ac.k` from 1 up to the largest element count. (After a
failing poseidonN `ac.k` is the index an earlier fold ended at, log entry 14.) -/
def Ac.InRange (ac : Ac) : Prop :=
  ac.n ≤ maxElements Config.abiStrict ∧ 1 ≤ ac.k ∧ ac.k ≤ max 1 (maxElements Config.abiStrict)

/-- The invariant of the block, kept by every step from every state that meets it:
the buffer has a legal length always; outside IDLE the latched request is a legal one (R24, R63); between the model's
steps the pair mixer is idle (R84; in BUSY because the model computes in one step, log entries 5 and 14); the chainer's
registers are in range (R23); an offered response is the response of the latched request (R107, R109); and so is every
response delivered so far, of its own request (R142). -/
structure State.Inv (s : State) : Prop where
  bufferFits : Memory.wf s.req.buf
  legal : s.phase ≠ .idle → Request.Legal s.req
  mixerIdle : s.dp.pm.phase = .pmIdle
  chainerInRange : s.dp.ac.InRange
  offered : s.phase = .done → s.rsp.Answers Config.abiStrict s.req
  delivered : ∀ rp ∈ s.observed, rp.2.Answers Config.abiStrict rp.1

/-- A run of `k` steps; it ends early at a refusal. -/
def runSteps : Nat → State → Host.Outcome State Fault Refusal
  | 0, s => .next s
  | k + 1, s =>
    match step s with
    | .next t => runSteps k t
    | .fault r => .fault r
    | .refused r => .refused r

/-- No reset acts on the coming step (R132). -/
def State.Running (s : State) : Prop := s.pins.rst = false ∧ s.rstHeld = false

/-- The coming step is the one that sets RSP (R109). -/
def State.Computing (s : State) : Prop := s.Running ∧ s.phase = .busy ∧ s.busyLeft = 0

/-- A run that can go on: the host keeps its duties in every scheduled step, and the invariant holds. -/
structure State.Safe (s : State) : Prop where
  dutiful : ∀ p ∈ s.host, p.Dutiful
  inv : s.Inv

end Sys2Proof.Machine
end

