-- ==== Sys2Proof/Certificates/Slice0/Obligations.lean ====
section
/-! DEFINITION. Certificates/Slice0/Obligations.lean: the statements about the model. Each docstring names the rules
of spec/ it formalises. -/

open Sys2Proof Sys2Proof.Machine

/-! ## Encoding and decoding -/

/-- R56, R58, the opcode table: the five table words, written out, decode to the instructions they stand for, with
zero operands. -/
def Obligations.TableWordsDecode : Prop :=
  decodeTableWord 40 0x005727d155 = some (.poseidon1 (List.replicate 32 0)) ∧
  decodeTableWord 40 0x006e9c433b = some (.poseidon2 (List.replicate 64 0)) ∧
  decodeTableWord 40 0x00f653802b = some (.poseidonN (List.replicate 64 0)) ∧
  decodeTableWord 40 0x0100000000 = some (.hash1 0) ∧
  decodeTableWord 40 0x0200000000 = some (.hash2 0 0)

/-- R51, R57, R58: decoding the encoding of any instruction gives that instruction back, with every operand. -/
def Obligations.DecodeOfEncode : Prop :=
  ∀ i : Instr, decode (encode i) = .instr i

/-- R51, R57: a request that decodes agrees with the encoding of its instruction in everything its command reads:
the command code, the whole buffer of a CALL, `a` of HASH1, `a` and `b` of HASH2. -/
def Obligations.EncodeOfDecode : Prop :=
  ∀ (r : Request) (i : Instr), decode r = .instr i →
    (encode i).cmd = r.cmd ∧
    (r.cmd = 0#2 → (encode i).buf = r.buf) ∧
    (r.cmd = 1#2 → (encode i).a = r.a) ∧
    (r.cmd = 2#2 → (encode i).a = r.a ∧ (encode i).b = r.b)

/-- R52, R53, R57, R64: writing a request down and decoding it gives its arguments back, at every value of every
argument, of arrays of any length that a count word can hold, in both settings of `ABI_STRICT`. The text
`CALL <hex bytes>` stands for the CALL request of exactly these bytes, which decodes to the instruction whose encoding
it is and to no other. -/
def Obligations.RequestTextsKeepArguments : Prop :=
  ∀ strict : Bool,
    (∀ x : Word, ∃ p, decode (RequestText.poseidon1 x).assemble = .instr (.poseidon1 p) ∧
      decodeP1 strict p = .ok x) ∧
    (∀ a b : Word, ∃ p, decode (RequestText.poseidon2 a b).assemble = .instr (.poseidon2 p) ∧
      decodeP2 strict p = .ok (a, b)) ∧
    (∀ elems : List Word, elems.length < 2 ^ 256 →
      ∃ p, decode (RequestText.poseidonN elems).assemble = .instr (.poseidonN p) ∧
        decodePN strict p = .ok elems) ∧
    (∀ a : Word, decode (RequestText.hash1 a).assemble = .instr (.hash1 a)) ∧
    (∀ a b : Word, decode (RequestText.hash2 a b).assemble = .instr (.hash2 a b)) ∧
    (∀ bytes : List Byte,
      (RequestText.call bytes).assemble.cmd = 0#2 ∧ (RequestText.call bytes).assemble.buf = bytes ∧
      ∀ i, decode (RequestText.call bytes).assemble = .instr i ↔ encode i = (RequestText.call bytes).assemble)

/-- R56: decoding follows the opcode table. A request with a key decodes to an instruction of a row exactly when
that row selects the key; a CALL whose key no row selects, and a CALL shorter than 4 bytes, are the two
`InvalidSelector` rejections; command code 3 is the reserved one. -/
def Obligations.DecodeFollowsTheTable : Prop :=
  (∀ (r : Request) (key : Nat), r.key? = some key →
    (∀ i, decode r = .instr i → i.row ∈ opTable ∧ i.row.selects key = true) ∧
    (∀ row ∈ opTable, row.selects key = true → ∃ i, decode r = .instr i ∧ i.row = row) ∧
    (r.cmd = 0#2 → (∀ row ∈ opTable, row.selects key = false) → decode r = .reject .unknownSelector) ∧
    (r.cmd = 3#2 → decode r = .reject .reservedCommand)) ∧
  (∀ r : Request, r.key? = none → decode r = .reject .bufferTooShort)

/-- R57: HASH1 reads `REQ.a` alone and HASH2 reads `REQ.a` and `REQ.b` alone; the buffer and its length play no
part. -/
def Obligations.DirectCommandsIgnoreTheBuffer : Prop :=
  ∀ r : Request,
    (r.cmd = 1#2 → decode r = .instr (.hash1 r.a)) ∧
    (r.cmd = 2#2 → decode r = .instr (.hash2 r.a r.b)) ∧
    (∀ buf : Memory, r.cmd = 1#2 ∨ r.cmd = 2#2 → decode { r with buf := buf } = decode r)

/-- R40, R60: an argument word at payload offset `k` has the value `be(MemRead(4 + k, 32))` of the call buffer, all
of it, wherever `k` points. -/
def Obligations.ArgumentWordsAreBigEndian : Prop :=
  ∀ (buf : Memory) (k : Nat), (payloadWord (buf.drop 4) k).toNat = be (memRead buf (4 + k) 32)

/-- R39, R111: the response word of a value below `P` reads back, big-endian, as that value; byte `j` holds bits
`255 - 8 j` down to `248 - 8 j`; its first byte is at most `0x30`. -/
def Obligations.ResultWordIsBigEndian : Prop :=
  ∀ v : Word,
    be (be32 v).toList = v.toNat ∧
    (∀ j : Fin 32, (be32 v)[j] = v.extractLsb' (8 * (31 - j.val)) 8) ∧
    (v.toNat < Config.P → ((be32 v)[0]).toNat ≤ 0x30)

/-! ## The field -/

/-- R65: `validate` answers `x` unchanged below `P` and `FieldElementTooLarge(x)` otherwise, with the rule's corner
cases. -/
def Obligations.ValidateChecksBelowP : Prop :=
  (∀ x : Word, (x.toNat < Config.P → validate x = .ok x) ∧
    (Config.P ≤ x.toNat →
      validate x = .error (.fieldElementTooLarge x) ∧ (Raised.fieldElementTooLarge x).info = x)) ∧
  validate 0 = .ok 0 ∧
  validate (BitVec.ofNat 256 (Config.P - 1)) = .ok (BitVec.ofNat 256 (Config.P - 1)) ∧
  validate (BitVec.ofNat 256 Config.P) = .error (.fieldElementTooLarge (BitVec.ofNat 256 Config.P)) ∧
  validate (BitVec.allOnes 256) = .error (.fieldElementTooLarge (BitVec.allOnes 256))

/-- R68: `reduce(v)` is the one `r < P` with `v - r` a multiple of `P`, with the rule's corner cases. -/
def Obligations.ReduceIsTheResidue : Prop :=
  (∀ v : Nat, reduce v < Config.P ∧ (∃ q, v = q * Config.P + reduce v) ∧
    ∀ r q, r < Config.P → v = q * Config.P + r → r = reduce v) ∧
  reduce Config.P = 0 ∧ reduce (Config.P - 1) = Config.P - 1 ∧ reduce 0 = 0 ∧
  reduce ((Config.P - 1) * (Config.P - 1)) = 1 ∧ reduce (Config.P + 5) = 5

/-- R69: `fadd` and `fmul` are the exact sum and product, reduced; both fit `WIDE` bits before the reduction; with
the rule's corner cases. -/
def Obligations.FieldOperationsAreExact : Prop :=
  (∀ a b : Word,
    fadd a.toNat b.toNat = (a.toNat + b.toNat) % Config.P ∧ a.toNat + b.toNat < 2 ^ 257 ∧
    fmul a.toNat b.toNat = (a.toNat * b.toNat) % Config.P ∧ a.toNat * b.toNat < 2 ^ Config.wide) ∧
  (∀ a, fmul a 0 = 0) ∧
  fadd (Config.P - 1) 1 = 0 ∧ fmul (Config.P - 1) (Config.P - 1) = 1 ∧
  fadd (Config.P - 1) (Config.P - 1) = Config.P - 2

/-- R67: the conversions between the wire form and the internal form are exact inverses on every word and on every
residue below `P`. -/
def Obligations.RepresentationRoundTrips : Prop :=
  (∀ x : Word, toExternal (toInternal x) = x) ∧
  (∀ r : Nat, r < Config.P → toInternal (toExternal r) = r)

/-- R70: every value a field operation produces, and every result an operation returns, is below `P`. -/
def Obligations.ResultsAreFieldElements : Prop :=
  (∀ v, reduce v < Config.P) ∧ (∀ a b, fadd a b < Config.P) ∧ (∀ a b, fmul a b < Config.P) ∧
  (∀ (strict : Bool) (i : Instr) (v : Nat), outcome strict i = .ok v → v < Config.P)

/-! ## The round engine -/

/-- R72, R81: the round constant is `x` with bit `i + 1` inverted: `2^(i+1)` is added when that bit is 0 and taken
away when it is 1; it is neither reduced nor validated. -/
def Obligations.RoundConstantFlipsOneBit : Prop :=
  (∀ x i : Nat,
    rc x i = 2 ^ (i + 1) ^^^ x ∧
    (x.testBit (i + 1) = false → rc x i = x + 2 ^ (i + 1)) ∧
    (x.testBit (i + 1) = true → rc x i + 2 ^ (i + 1) = x)) ∧
  rc (Config.P - 1) 0 = Config.P + 1 ∧ Config.P ≤ rc (Config.P - 1) 0 ∧
  (List.range 8).map (rc 0) = [2, 4, 8, 16, 32, 64, 128, 256] ∧
  (List.range 8).map (rc 42) = [40, 46, 34, 58, 10, 106, 170, 298]

/-- R73: the round-constant addition writes `fadd(pe.result, rc(pe.x, pe.i))` to `pe.result` and no other register;
its unreduced sum is below `2 P + 2^9` when `pe.result` and `pe.x` are below `P` and `pe.i` is a round index. -/
def Obligations.RoundConstantAddition : Prop :=
  (∀ d : Datapath,
    (d.peAddConstant.pe.result).toNat =
      (d.pe.result.toNat + (2 ^ (d.pe.i.toNat + 1) ^^^ d.pe.x.toNat)) % Config.P ∧
    d.peAddConstant.pe = { d.pe with result := d.peAddConstant.pe.result } ∧
    d.peAddConstant.pm = d.pm ∧ d.peAddConstant.ac = d.ac ∧
    (d.pe.result.toNat < Config.P → d.pe.x.toNat < Config.P → d.pe.i.toNat < 8 →
      d.pe.result.toNat + rc d.pe.x.toNat d.pe.i.toNat < 2 * Config.P + 2 ^ 9)) ∧
  fadd 42 (rc 42 0) = 82

/-- R74: the S-box leaves `pe.result` at its fifth power modulo `P` and its old value in `pe.t`, and writes no other
register; two squarings and one multiply in the rule's order; the rule's corner cases. -/
def Obligations.SboxIsTheFifthPower : Prop :=
  (∀ d : Datapath,
    (d.peSbox.pe.result).toNat = d.pe.result.toNat ^ 5 % Config.P ∧
    d.peSbox.pe.t = d.pe.result ∧
    d.peSbox.pe.x = d.pe.x ∧ d.peSbox.pe.i = d.pe.i ∧ d.peSbox.pm = d.pm ∧ d.peSbox.ac = d.ac) ∧
  (∀ r, sbox r = r ^ 5 % Config.P ∧ sbox r = fmul (fmul (fmul r r) (fmul r r)) r) ∧
  sbox 0 = 0 ∧ sbox 1 = 1 ∧ sbox (Config.P - 1) = Config.P - 1 ∧ sbox 2 = 32 ∧ sbox 82 = 0xdcfa6920

/-- R71, R75, R78: `hash_single(x)` is exactly 8 rounds `i = 0 .. 7` in this order, each the round-constant addition
and then the S-box, with the rules' examples. -/
def Obligations.PermutationIsEightRounds : Prop :=
  (∀ x, hashSingle x = [0, 1, 2, 3, 4, 5, 6, 7].foldl (fun r i => round r x i) x) ∧
  (∀ r x i, round r x i = sbox (fadd r (rc x i))) ∧
  round 42 42 0 = 0xdcfa6920 ∧
  hashSingle 0 = 0x1dad1391a4cc9e9131d3b15a3cdddabd9fe8da8716bfdf9ea1104c490112ef63 ∧ hashSingle 0 ≠ 0

/-- R80: `hash_single` of a field element is a field element; the source's spot check of two inputs. -/
def Obligations.PermutationRange : Prop :=
  (∀ x, x < Config.P → hashSingle x < Config.P) ∧ hashSingle 1 ≠ hashSingle 2

/-! ## The pair mixer and the chainer -/

/-- R83, R85, R88: the pair mix is two permutations, of `combined` and of `remixed`, with `left` weighted 3 and
`right` weighted 5; its sums fit `WIDE` bits; with the rules' examples. -/
def Obligations.PairMixIsTwoPermutations : Prop :=
  (∀ left right : Nat, left < Config.P → right < Config.P →
    hashPair left right =
      hashSingle ((3 * left + 5 * right + hashSingle ((left + right + 1) % Config.P)) % Config.P) ∧
    left + right + 1 < 2 * Config.P ∧
    3 * left + 5 * right + hashSingle ((left + right + 1) % Config.P) < 9 * Config.P ∧
    ((left + right + 1) % Config.P = 0 ↔ left + right = Config.P - 1)) ∧
  9 * Config.P < 2 ^ 258 ∧
  hashPair 1 2 = 0x0743aa7d83747d9a87eaa9c6ba83e05a06e7c38fca8e7a6499d0bfdba7d341c7 ∧
  hashPair 2 1 = 0x0ad9c6e42e17f6890201572d5565867abe63c2e0e76b2e6946563458652904c1

/-- R87, R94: the chaining law: appending a valid element to a non-empty valid array mixes it, on the right, into
the array's hash; and its three-element form. -/
def Obligations.ChainingLaw : Prop :=
  (∀ (e x : Word) (es : List Word), (∀ y ∈ e :: es, y.toNat < Config.P) → x.toNat < Config.P →
    ∃ h, hashArray (e :: es) = .ok h ∧ hashArray ((e :: es) ++ [x]) = .ok (hashPair h x.toNat)) ∧
  (∀ a b c : Word, a.toNat < Config.P → b.toNat < Config.P → c.toNat < Config.P →
    hashArray [a, b, c] = .ok (hashPair (hashPair a.toNat b.toNat) c.toNat))

/-- R89, R90, R91: an empty array is `InvalidInputLength(0)`; otherwise the first element that is not below `P` is
reported; otherwise the hash is the left fold. -/
def Obligations.ArrayHashOutcomes : Prop :=
  hashArray [] = .error (.invalidInputLength 0) ∧
  (∀ (good rest : List Word) (bad : Word), (∀ e ∈ good, e.toNat < Config.P) → Config.P ≤ bad.toNat →
    hashArray (good ++ bad :: rest) = .error (.fieldElementTooLarge bad)) ∧
  (∀ (e : Word) (es : List Word), (∀ x ∈ e :: es, x.toNat < Config.P) →
    hashArray (e :: es) = .ok (es.foldl (fun acc x => hashPair acc x.toNat) e.toNat)) ∧
  hashArray [1, 2, 3] = .ok 0x1e8a3e78f8d6d0eb01c2400a4cc4770387d630a898962bbaab5afa61408e4468

/-! ## The ABI decode -/

/-- R98: the fixed-shape decode, by cases of the payload's length. -/
def Obligations.FixedShapeDecode : Prop :=
  ∀ (strict : Bool) (p : List Byte),
    (p.length < 32 → decodeP1 strict p = .error (.abiDecodeError .short)) ∧
    (32 ≤ p.length → (p.length = 32 ∨ strict = false) →
      decodeP1 strict p = .ok (BitVec.ofNat 256 (be (p.take 32)))) ∧
    (32 < p.length → decodeP1 true p = .error (.abiDecodeError .nonCanonical)) ∧
    (p.length < 64 → decodeP2 strict p = .error (.abiDecodeError .short)) ∧
    (64 ≤ p.length → (p.length = 64 ∨ strict = false) →
      decodeP2 strict p =
        .ok (BitVec.ofNat 256 (be (p.take 32)), BitVec.ofNat 256 (be ((p.drop 32).take 32)))) ∧
    (64 < p.length → decodeP2 true p = .error (.abiDecodeError .nonCanonical))

/-- R99: the dynamic-array decode, by cases of the payload's length `m`, the offset `o` and the count `n` it holds;
exact arithmetic, no alignment of `o`. Its three checks come before the canonical form of R100 (R120 item 3), so they
give `ABI_SHORT`, `ABI_OFFSET`, `ABI_LENGTH` in both settings of `ABI_STRICT`; then, with `ABI_STRICT = false`, the
elements. -/
def Obligations.ArrayDecodeLenient : Prop :=
  ∀ (p : List Byte) (o n : Nat), o = be (p.take 32) → n = be ((p.drop o).take 32) →
    (∀ strict : Bool,
      (p.length < 32 → decodePN strict p = .error (.abiDecodeError .short)) ∧
      (32 ≤ p.length → p.length < o + 32 → decodePN strict p = .error (.abiDecodeError .offset)) ∧
      (32 ≤ p.length → o + 32 ≤ p.length → p.length < o + 32 + 32 * n →
        decodePN strict p = .error (.abiDecodeError .length))) ∧
    (32 ≤ p.length → o + 32 + 32 * n ≤ p.length →
      ∃ elems, decodePN false p = .ok elems ∧ elems.length = n ∧
        ∀ k, k < n → elems[k]? = some (BitVec.ofNat 256 (be ((p.drop (o + 32 + 32 * k)).take 32))))

/-- R98, R100: with `ABI_STRICT = true` the decodes accept exactly the canonical payloads of R52 and R53, what they
accept decodes to the same arguments with `ABI_STRICT = false`, and a payload that only the lenient decode accepts is
`ABI_NONCANONICAL`, reason code 4. -/
def Obligations.StrictAcceptsExactlyCanonical : Prop :=
  (∀ (p : List Byte) (x : Word), decodeP1 true p = .ok x ↔ p = abiEncode1 x) ∧
  (∀ (p : List Byte) (a b : Word), decodeP2 true p = .ok (a, b) ↔ p = abiEncode2 a b) ∧
  (∀ (p : List Byte) (elems : List Word),
    decodePN true p = .ok elems ↔ elems.length < 2 ^ 256 ∧ p = abiEncodeN elems) ∧
  (∀ (p : List Byte) (x : Word), decodeP1 true p = .ok x → decodeP1 false p = .ok x) ∧
  (∀ (p : List Byte) (ab : Word × Word), decodeP2 true p = .ok ab → decodeP2 false p = .ok ab) ∧
  (∀ (p : List Byte) (elems : List Word), decodePN true p = .ok elems → decodePN false p = .ok elems) ∧
  (∀ (p : List Byte) (elems : List Word), decodePN false p = .ok elems → p ≠ abiEncodeN elems →
    decodePN true p = .error (.abiDecodeError .nonCanonical)) ∧
  AbiReason.nonCanonical.code = 4

/-! ## The five operations -/

/-- R102, R76, R77: poseidon1 on a payload that decodes to a field element completes: `OK`, `be32(hash_single(x))`,
information 0; the engine's registers are left as its 8 rounds leave them. -/
def Obligations.Poseidon1Completes : Prop :=
  ∀ (p : List Byte) (x : Word) (s : State),
    decodeP1 Config.abiStrict p = .ok x → x.toNat < Config.P →
    ∃ t, exec (.poseidon1 p) s = .next t ∧ t.phase = .done ∧
      t.rsp = ⟨0, be32 (toExternal (hashSingle x.toNat)), 0⟩ ∧
      t.dp.pe.x = x ∧ t.dp.pe.result = toExternal (hashSingle x.toNat) ∧ t.dp.pe.i = 8

/-- R103, R84: poseidon2 on a payload that decodes to two field elements completes, with the pair mixer's registers
as R84 leaves them. -/
def Obligations.Poseidon2Completes : Prop :=
  ∀ (p : List Byte) (a b : Word) (s : State),
    decodeP2 Config.abiStrict p = .ok (a, b) → a.toNat < Config.P → b.toNat < Config.P →
    ∃ t, exec (.poseidon2 p) s = .next t ∧ t.phase = .done ∧
      t.rsp = ⟨0, be32 (toExternal (hashPair a.toNat b.toNat)), 0⟩ ∧
      t.dp.pm = ⟨a, b, toExternal (hashSingle ((a.toNat + b.toNat + 1) % Config.P)), .pmIdle⟩ ∧
      t.dp.pe.result = toExternal (hashPair a.toNat b.toNat) ∧ t.dp.pe.i = 8

/-- R104, R92: poseidonN on a payload that decodes to a non-empty array of field elements completes, with the
chainer's registers as R92 leaves them. -/
def Obligations.PoseidonNCompletes : Prop :=
  ∀ (p : List Byte) (e : Word) (es : List Word) (s : State),
    decodePN Config.abiStrict p = .ok (e :: es) → (∀ x ∈ e :: es, x.toNat < Config.P) →
    ∃ t, exec (.poseidonN p) s = .next t ∧ t.phase = .done ∧
      t.rsp = ⟨0, be32 (toExternal (foldPairs e.toNat es)), 0⟩ ∧
      t.dp.ac = ⟨e :: es, es.length + 1, toExternal (foldPairs e.toNat es)⟩

/-- R105, R76, R77: `HASH1 a` on a field element completes. -/
def Obligations.Hash1Completes : Prop :=
  ∀ (a : Word) (s : State), a.toNat < Config.P →
    ∃ t, exec (.hash1 a) s = .next t ∧ t.phase = .done ∧
      t.rsp = ⟨0, be32 (toExternal (hashSingle a.toNat)), 0⟩ ∧
      t.dp.pe.x = a ∧ t.dp.pe.result = toExternal (hashSingle a.toNat) ∧ t.dp.pe.i = 8

/-- R106, R84: `HASH2 a, b` on two field elements completes. -/
def Obligations.Hash2Completes : Prop :=
  ∀ (a b : Word) (s : State), a.toNat < Config.P → b.toNat < Config.P →
    ∃ t, exec (.hash2 a b) s = .next t ∧ t.phase = .done ∧
      t.rsp = ⟨0, be32 (toExternal (hashPair a.toNat b.toNat)), 0⟩ ∧
      t.dp.pm = ⟨a, b, toExternal (hashSingle ((a.toNat + b.toNat + 1) % Config.P)), .pmIdle⟩ ∧
      t.dp.pe.result = toExternal (hashPair a.toNat b.toNat) ∧ t.dp.pe.i = 8

/-- R82: the boundary through the interface: `P - 1` succeeds with the rule's word and `P` fails with
`FieldElementTooLarge(P)`, the engine not started, for HASH1 and for the canonical poseidon1 call. -/
def Obligations.BoundaryThroughTheInterface : Prop :=
  ∀ (i : Word → Instr), (i = fun x => .hash1 x) ∨ (i = fun x => .poseidon1 (abiEncode1 x)) →
    ∀ s : State,
      (∃ t, exec (i (BitVec.ofNat 256 (Config.P - 1))) s = .next t ∧ t.rsp =
        ⟨0, be32 0x27bed49c95142ea00804620cd2d4c5aa7348a2adee614a0b3ddb7d464b8fd334, 0⟩) ∧
      (∃ t, exec (i (BitVec.ofNat 256 Config.P)) s = .next t ∧ t.rsp.status = 3 ∧
        t.rsp.info = BitVec.ofNat 256 Config.P ∧ t.dp = s.dp)

/-- R93: a one-element array of a field element returns the element itself, and neither the engine nor the mixer
runs; poseidon1 of the same word returns `hash_single`, which differs for 7. -/
def Obligations.SingleElementIsUnhashed : Prop :=
  (∀ x : Word, x.toNat < Config.P → hashArray [x] = .ok x.toNat) ∧
  hashSingle 7 ≠ 7 ∧
  ∀ (x : Word) (s : State), x.toNat < Config.P →
    (∃ t, exec (.poseidon1 (abiEncode1 x)) s = .next t ∧
      t.rsp = ⟨0, be32 (toExternal (hashSingle x.toNat)), 0⟩) ∧
    ∃ t, exec (.poseidonN (abiEncodeN [x])) s = .next t ∧ t.rsp = ⟨0, be32 x, 0⟩ ∧
      t.dp.pe = s.dp.pe ∧ t.dp.pm = s.dp.pm ∧ t.dp.work = s.dp.work

/-- R105, R106: the direct commands give, from every state and on every operand, the very next state of the
canonical call of the same arguments: the response those rules ask for, and the same registers. Where both fail, that
also equates the two response words, which R107 leaves free: there the statement is the model's, which draws the word
by the state's draw counter (log entry 4), and says nothing of the block. -/
def Obligations.DirectCommandsAgreeWithCalls : Prop :=
  (∀ (a : Word) (s : State), exec (.hash1 a) s = exec (.poseidon1 (abiEncode1 a)) s) ∧
  (∀ (a b : Word) (s : State), exec (.hash2 a b) s = exec (.poseidon2 (abiEncode2 a b)) s)

/-- R101: a payload that does not decode ends its call with `AbiDecodeError` and its reason code, and no working
register of any unit changes. The reason codes are those of R114. -/
def Obligations.DecodeFailureComputesNothing : Prop :=
  AbiReason.short.code = 1 ∧ AbiReason.offset.code = 2 ∧ AbiReason.length.code = 3 ∧
  AbiReason.nonCanonical.code = 4 ∧
  ∀ (p : List Byte) (e : Raised) (s : State) (i : Instr),
    (i = .poseidon1 p ∧ decodeP1 Config.abiStrict p = .error e) ∨
    (i = .poseidon2 p ∧ decodeP2 Config.abiStrict p = .error e) ∨
    (i = .poseidonN p ∧ decodePN Config.abiStrict p = .error e) →
    ∃ t why, e = .abiDecodeError why ∧ exec i s = .next t ∧ t.phase = .done ∧ t.dp = s.dp ∧
      t.rsp.status = 2 ∧ t.rsp.info = BitVec.ofNat 256 why.code

/-- R117, R103, R106, R120: an argument that is not below `P` ends its operation with `FieldElementTooLarge` and
that argument as information, whatever payload carries it; `a` before `b`; the engine and the mixer do not run. -/
def Obligations.OutOfRangeArgumentIsReported : Prop :=
  ∀ (a : Word) (s : State) (i : Instr), Config.P ≤ a.toNat →
    (i = .hash1 a ∨
      (∃ p, i = .poseidon1 p ∧ decodeP1 Config.abiStrict p = .ok a) ∨
      (∃ b, i = .hash2 a b) ∨
      (∃ p b, i = .poseidon2 p ∧ decodeP2 Config.abiStrict p = .ok (a, b)) ∨
      (∃ c : Word, c.toNat < Config.P ∧ i = .hash2 c a) ∨
      (∃ (p : List Byte) (c : Word), c.toNat < Config.P ∧ i = .poseidon2 p ∧
        decodeP2 Config.abiStrict p = .ok (c, a)) ∨
      (∃ (p : List Byte) (good rest : List Word), (∀ e ∈ good, e.toNat < Config.P) ∧ i = .poseidonN p ∧
        decodePN Config.abiStrict p = .ok (good ++ a :: rest))) →
    ∃ t, exec i s = .next t ∧ t.phase = .done ∧ t.rsp.status = 3 ∧ t.rsp.info = a ∧
      t.dp.pe = s.dp.pe ∧ t.dp.pm = s.dp.pm

/-- R90, R118: an array that decodes to no element ends with `InvalidInputLength`, information 0, and nothing else
ends so. -/
def Obligations.EmptyArrayIsReported : Prop :=
  (∀ (p : List Byte) (s : State), decodePN Config.abiStrict p = .ok [] →
    ∃ t, exec (.poseidonN p) s = .next t ∧ t.phase = .done ∧ t.rsp.status = 4 ∧ t.rsp.info = 0 ∧
      t.dp.pe = s.dp.pe ∧ t.dp.pm = s.dp.pm) ∧
  (∀ (i : Instr) (s t : State), exec i s = .next t → t.rsp.status = 4 →
    ∃ p, i = .poseidonN p ∧ decodePN Config.abiStrict p = .ok [])

/-- R86, R95, R141: the work of a successful operation: permutations, 8 rounds, 8 `fadd` and 24 `fmul` for each, and
the other reductions. The counters are the model's own (log entry 10). -/
def Obligations.WorkPerOperation : Prop :=
  ∀ (i : Instr) (s t : State), exec i s = .next t → t.rsp.status = 0 →
    ∃ n m, t.dp.work =
        ⟨s.dp.work.permutations + n, s.dp.work.rounds + 8 * n, s.dp.work.fadds + 8 * n,
          s.dp.work.fmuls + 24 * n, s.dp.work.mixes + m⟩ ∧
      match i with
      | .poseidon1 _ => n = 1 ∧ m = 0
      | .hash1 _ => n = 1 ∧ m = 0
      | .poseidon2 _ => n = 2 ∧ m = 2
      | .hash2 _ _ => n = 2 ∧ m = 2
      | .poseidonN _ => n = 2 * (t.dp.ac.n - 1) ∧ m = 2 * (t.dp.ac.n - 1)

/-! ## Frames -/

/-- R38, R108, R24: what every operation leaves unchanged: the latched request, every byte of the buffer, and
everything outside the response, the phase and the working registers. -/
def Obligations.EveryOperationFrame : Prop :=
  ∀ (i : Instr) (s t : State), exec i s = .next t →
    t.req = s.req ∧ (∀ a, t.req.buf.readByte a = s.req.buf.readByte a) ∧
    t.rstHeld = s.rstHeld ∧ t.busyLeft = s.busyLeft ∧ t.host = s.host ∧ t.observed = s.observed ∧
    t.phase = .done ∧ (t.rsp.status = 0 → t.draws = s.draws)

/-- R102, R105: poseidon1 and HASH1 use the round engine only, and no unit when they fail. That the working registers
no rule writes keep their values, also after a failure, is the model's reading (log entry 14). -/
def Obligations.SingleOperationsFrame : Prop :=
  ∀ (i : Instr) (s t : State), (∃ p, i = .poseidon1 p) ∨ (∃ a, i = .hash1 a) → exec i s = .next t →
    t.dp.pm = s.dp.pm ∧ t.dp.ac = s.dp.ac ∧ (t.rsp.status ≠ 0 → t.dp = s.dp)

/-- R103, R106: poseidon2 and HASH2 use the pair mixer and the engine only, and no unit when they fail. That the
working registers no rule writes keep their values, also after a failure, is the model's reading (log entry 14). -/
def Obligations.PairOperationsFrame : Prop :=
  ∀ (i : Instr) (s t : State), (∃ p, i = .poseidon2 p) ∨ (∃ a b, i = .hash2 a b) → exec i s = .next t →
    t.dp.ac = s.dp.ac ∧ (t.rsp.status ≠ 0 → t.dp = s.dp)

/-- R104: a failing poseidonN writes at most the loaded elements; a payload that does not decode writes not even
those. -/
def Obligations.ArrayOperationFrame : Prop :=
  ∀ (p : List Byte) (s t : State), exec (.poseidonN p) s = .next t → t.rsp.status ≠ 0 →
    t.dp.pe = s.dp.pe ∧ t.dp.pm = s.dp.pm ∧ t.dp.work = s.dp.work ∧
    t.dp.ac.k = s.dp.ac.k ∧ t.dp.ac.acc = s.dp.ac.acc ∧
    (t.rsp.status = 2 → t.dp.ac = s.dp.ac) ∧
    (∀ elems, decodePN Config.abiStrict p = .ok elems → t.dp.ac.elem = elems)

/-! ## One step -/

/-- R96, R109: when the coming step is the one that sets RSP and the latched request decodes, it is `exec` of the
decoded instruction, on the state whose host schedule has moved on by one step. -/
def Obligations.StepRunsTheDecodedInstruction : Prop :=
  ∀ (s : State) (i : Instr), s.Computing → decode s.req = .instr i → step s = exec i s.advance

/-- R97, R113: a computing step answers `InvalidSelector`, information 0, exactly for a CALL whose buffer is shorter
than 4 bytes or whose first 4 bytes are none of the three selectors. -/
def Obligations.InvalidSelectorExactly : Prop :=
  ∀ s : State, s.Computing → s.req.cmd ≠ 3#2 →
    ∃ t, step s = .next t ∧
      (t.rsp.status = 1 ↔ s.req.cmd = 0#2 ∧
        (s.req.len < 4 ∨ be (memRead s.req.buf 0 4) ∉ [0x5727d155, 0x6e9c433b, 0xf653802b])) ∧
      (t.rsp.status = 1 → t.rsp.info = 0)

/-- R112, R115, R116: the status codes; and whatever a computing step answers is in the closed taxonomy: its status
is 0 to 4, never 5 to 7, and its information word is of the kind R116 gives that status. -/
def Obligations.ResponsesAreInTheTaxonomy : Prop :=
  statusOk = 0 ∧ Raised.invalidSelector.code = 1 ∧ (∀ why, (Raised.abiDecodeError why).code = 2) ∧
  (∀ v, (Raised.fieldElementTooLarge v).code = 3) ∧ (∀ n, (Raised.invalidInputLength n).code = 4) ∧
  ∀ s t : State, s.Computing → step s = .next t →
    (t.rsp.status = 0 ∧ t.rsp.info = 0 ∧ be t.rsp.word.toList < Config.P) ∨
    (t.rsp.status = 1 ∧ t.rsp.info = 0) ∨
    (t.rsp.status = 2 ∧ t.rsp.info.toNat ∈ [1, 2, 3, 4]) ∨
    (t.rsp.status = 3 ∧ Config.P ≤ t.rsp.info.toNat) ∨
    (t.rsp.status = 4 ∧ t.rsp.info = 0)

/-- R34, R107, R109: the register-level computation refines `Respond`: a computing step on a request whose command
is not the reserved one goes to DONE, keeps REQ, and leaves in RSP what `Respond(REQ)` says; command 3 is refused. -/
def Obligations.ComputeRefinesRespond : Prop :=
  ∀ s : State, s.Computing →
    (s.req.cmd ≠ 3#2 →
      ∃ t, step s = .next t ∧ t.phase = .done ∧ t.req = s.req ∧ t.rsp.Answers Config.abiStrict s.req) ∧
    (s.req.cmd = 3#2 → step s = .refused .reservedCommand)

/-- R33, R79: two computing steps with equal requests give equal responses, whatever else their states hold: the same
status and information, and on success the same word. -/
def Obligations.EqualRequestsGetEqualResponses : Prop :=
  ∀ s₁ s₂ t₁ t₂ : State, s₁.Computing → s₂.Computing → s₁.req = s₂.req →
    step s₁ = .next t₁ → step s₂ = .next t₂ →
    t₁.rsp.status = t₂.rsp.status ∧ t₁.rsp.info = t₂.rsp.info ∧
    (t₁.rsp.status = 0 → t₁.rsp.word = t₂.rsp.word)

/-- R108, R31, R37: the accept step copies the port into REQ and goes to BUSY; the response, the working registers
and the observation stay. The latency it draws is the model's free value (log entry 5). -/
def Obligations.AcceptLatchesThePort : Prop :=
  ∀ s : State, s.Running → s.phase = .idle → s.pins.reqValid = true → s.pins.Dutiful →
    ∃ t, step s = .next t ∧ t.phase = .busy ∧
      t.req = ⟨s.pins.reqCmd, s.pins.reqBuf, s.pins.reqA, s.pins.reqB⟩ ∧
      t.req.len = s.pins.reqLen ∧ (∀ a, t.req.buf.readByte a = s.pins.reqBuf[a]?) ∧
      t.rsp = s.rsp ∧ t.dp = s.dp ∧ t.observed = s.observed ∧ t.busyLeft = Config.latency s.draws

/-- R63, R139: an offered request that breaks a duty of the host is refused, by name. -/
def Obligations.UndutifulRequestsAreRefused : Prop :=
  ∀ s : State, s.Running → s.phase = .idle → s.pins.reqValid = true →
    (s.pins.reqCmd = 3#2 → step s = .refused .reservedCommand) ∧
    (s.pins.reqCmd ≠ 3#2 → Config.maxCalldata < s.pins.reqLen → step s = .refused .calldataTooLong) ∧
    (s.pins.reqCmd ≠ 3#2 → s.pins.reqLen ≤ Config.maxCalldata → s.pins.reqBuf.length ≠ s.pins.reqLen →
      step s = .refused .bufferLengthMismatch)

/-- R108, R136, R137: outside IDLE a step that no reset touches ignores the request port: with any other request on
the port it takes the same next state; REQ keeps its value. -/
def Obligations.BusyBlockIgnoresTheRequestPort : Prop :=
  ∀ (s t : State) (p q : Pins) (rest : List Pins), s.rstHeld = false → s.phase ≠ .idle → p.rst = false →
    q = { p with reqValid := q.reqValid, reqCmd := q.reqCmd, reqLen := q.reqLen, reqBuf := q.reqBuf,
                 reqA := q.reqA, reqB := q.reqB } →
    step { s with host := p :: rest } = .next t →
    step { s with host := q :: rest } = .next t ∧ t.req = s.req ∧ s.reqReady = false

/-- R32, R110, R122: `rsp_valid` is 1 exactly in DONE; the deliver step hands `(REQ, RSP)` to the host and goes to
IDLE, changing nothing else of the block; without `rsp_ready` the response stays on offer, unchanged. -/
def Obligations.DeliverHandsOverTheResponse : Prop :=
  (∀ s : State, s.rspValid = true ↔ s.phase = .done) ∧
  ∀ s : State, s.Running → s.phase = .done →
    (s.pins.rspReady = true → step s =
      .next { s with phase := .idle, host := s.host.tail, observed := s.observed ++ [(s.req, s.rsp)] }) ∧
    (s.pins.rspReady = false → step s = .next { s with host := s.host.tail })

/-- R31, R131: `req_ready` is 1 exactly in IDLE; without a request an idle block keeps all of its state. -/
def Obligations.IdleBlockKeepsItsState : Prop :=
  (∀ s : State, s.reqReady = true ↔ s.phase = .idle) ∧
  ∀ s : State, s.Running → s.phase = .idle → s.pins.reqValid = false →
    step s = .next { s with host := s.host.tail }

/-- R35, R132, R133: in a step with `rst = 1`, in any phase, and in the step that releases it, the block takes the
reset values R35 gives, and the transaction in flight, if any, is dropped without a response. -/
def Obligations.ResetDropsTheTransaction : Prop :=
  ∀ s : State, s.pins.rst = true ∨ s.rstHeld = true →
    ∃ t, step s = .next t ∧ t.phase = .idle ∧ t.reqReady = true ∧ t.rspValid = false ∧
      t.dp.pm.phase = .pmIdle ∧ t.observed = s.observed ∧ t.rstHeld = s.pins.rst ∧ t.host = s.host.tail

/-- R35, R132: right after reset the block is idle and ready, offers no response, and the pair mixer is idle. -/
def Obligations.ResetState : Prop :=
  State.reset.phase = .idle ∧ State.reset.reqReady = true ∧ State.reset.rspValid = false ∧
  State.reset.dp.pm.phase = .pmIdle ∧ State.reset.rstHeld = false ∧ State.reset.observed = []

/-! ## Invariants and runs -/

/-- The invariant of the block holds right after reset. That unspecified registers are drawn within the ranges of R23
and R24 is the model's reading (log entry 3). -/
def Obligations.ResetMeetsInvariant : Prop := State.reset.Inv

/-- R23, R24, R33, R84, R107, R142: every step from every state that meets the invariant meets it again: the buffer
keeps a legal length, outside IDLE the request is legal, between steps the mixer is idle and the chainer's registers
are in range (log entry 12), and every response offered or delivered is the response of its own request. That the
mixer is idle between the steps of a BUSY transaction is the model's: R84 and R109 let it be in PM_FIRST or PM_SECOND
there, but the model takes a transaction's computation as one step (log entry 5, DESIGN CHOICE), which leaves the mixer
idle (log entry 14, DEDUCED). -/
def Obligations.StepKeepsInvariant : Prop :=
  ∀ s t : State, s.Inv → step s = .next t → t.Inv

/-- R112, R139: while the host keeps its duties the block never stops: from a safe state every run of any length goes
on, and stays safe. -/
def Obligations.DutifulHostNeverStopsTheBlock : Prop :=
  ∀ (s : State), s.Safe → ∀ k, ∃ t, runSteps k s = .next t ∧ t.Safe

/-- R109, R140: a transaction that no reset cuts reaches DONE after a finite number of steps, with its response. The
number is the model's: `busyLeft + 1`, what its free latency leaves (log entry 5, DESIGN CHOICE). -/
def Obligations.TransactionsReachDone : Prop :=
  ∀ s : State, s.phase = .busy → s.req.cmd ≠ 3#2 → s.rstHeld = false →
    (∀ p ∈ s.host.take (s.busyLeft + 1), p.rst = false) →
    ∃ t, runSteps (s.busyLeft + 1) s = .next t ∧ t.phase = .done ∧
      t.req = s.req ∧ t.rsp.Answers Config.abiStrict s.req

/-- R108, R109, R110, R142: one whole transaction: from an idle block, a dutiful request, any input signals without a
reset while it is computed, then readiness for the response; the block is idle again and exactly one pair, of the
request and its response, has been added to the observation. The number of steps, the free latency plus 3, is the
model's (log entry 5, DESIGN CHOICE). -/
def Obligations.OneTransactionEndToEnd : Prop :=
  ∀ (s : State) (p r : Pins) (middle rest : List Pins),
    s.phase = .idle → s.rstHeld = false → s.host = p :: (middle ++ r :: rest) →
    p.rst = false → p.reqValid = true → p.Dutiful →
    middle.length = Config.latency s.draws + 1 → (∀ q ∈ middle, q.rst = false) →
    r.rst = false → r.rspReady = true →
    ∃ t rsp, runSteps (Config.latency s.draws + 3) s = .next t ∧
      t.phase = .idle ∧ t.host = rest ∧ t.observed = s.observed ++ [(p.request, rsp)] ∧
      rsp.Answers Config.abiStrict p.request

/-- R14, R129: copies share no state: a step of one copy is its own step and changes no other, and steps of two
copies can be taken in either order with the same result. -/
def Obligations.CopiesDoNotInterfere : Prop :=
  ∀ (p q : Platform) (j k : Nat), p.stepAt j = some q → j ≠ k →
    (∃ s t, p.blocks[j]? = some s ∧ step s = .next t ∧ q.blocks[j]? = some t) ∧
    q.blocks[k]? = p.blocks[k]? ∧
    (∀ r, p.stepAt k = some r → ∃ u, q.stepAt k = some u ∧ r.stepAt j = some u)

/-- R6, R7, R8, R28, R58, R59: the hardwired constants: `P` in hexadecimal, the round counts, and each selector the
first four bytes of the digest R59 prints, all three different. -/
def Obligations.HardwiredConstants : Prop :=
  Config.P = 0x30644e72e131a029b85045b68181585d2833e84879b9709143e1f593f0000001 ∧
  Config.P < 2 ^ 254 ∧ 2 ^ 253 ≤ Config.P ∧
  Config.fullRounds = 8 ∧ Config.partialRounds = 57 ∧ 68 ≤ Config.maxCalldata ∧
  Config.selPoseidon1 = Config.digestPoseidon1 / 2 ^ 224 ∧
  Config.selPoseidon2 = Config.digestPoseidon2 / 2 ^ 224 ∧
  Config.selPoseidonN = Config.digestPoseidonN / 2 ^ 224 ∧
  [Config.selPoseidon1, Config.selPoseidon2, Config.selPoseidonN].Nodup

/-- R23, R92: the ranges of the chainer's registers. After reset and after a reset step `ac.n` is at most `MAX_N` and
`ac.k` lies in `1 .. ac.n` (from 1 on where there is no element): R35 leaves their values open, and that they are
drawn within R23's ranges is the model's reading (log entry 3). An array that a buffer of at most `MAX_CALLDATA`
bytes carries has at most `MAX_N` elements when its offset word is 32 or more, or 0, and at most `maxElements` ever:
`MAX_N` in strict mode and at most one more otherwise, which is the model's reading of R99 beside R23 (log entry 12).
In a fold the index of the next element runs from 1 up to `ac.n`. -/
def Obligations.ArrayRegistersStayInRange : Prop :=
  (∀ s : State, s = State.reset ∨ (∃ u, (u.pins.rst = true ∨ u.rstHeld = true) ∧ step u = .next s) →
    s.dp.ac.n ≤ Config.maxN ∧ 1 ≤ s.dp.ac.k ∧ (s.dp.ac.n ≠ 0 → s.dp.ac.k ≤ s.dp.ac.n)) ∧
  (∀ (strict : Bool) (p : List Byte) (elems : List Word), 4 + p.length ≤ Config.maxCalldata →
    decodePN strict p = .ok elems →
    elems.length ≤ maxElements strict ∧
    (be (p.take 32) = 0 ∨ 32 ≤ be (p.take 32) → elems.length ≤ Config.maxN)) ∧
  maxElements true = Config.maxN ∧ maxElements false ≤ Config.maxN + 1 ∧
  (∀ (d : Datapath) (j : Nat), j < d.ac.n →
    (Nat.iterate Datapath.acFold j d.acStart).ac.k = j + 1 ∧
    (Nat.iterate Datapath.acFold j d.acStart).ac.elem = d.ac.elem)
end

