-- ==== Sys2Proof/Laws/Bytes.lean ====
section
/-! SUPPORT. Laws/Bytes.lean: byte order, reads of the buffer, and the form of a buffer. -/

namespace Sys2Proof.Machine

/-! ## `be` and `beBytes` -/

theorem be_lt (bs : List Byte) : be bs < 256 ^ bs.length := by
  induction bs with
  | nil => simp [be]
  | cons b bs ih =>
    have hb : b.toNat < 256 := b.isLt
    have : b.toNat * 256 ^ bs.length + 256 ^ bs.length ≤ 256 * 256 ^ bs.length := by
      have := Nat.mul_le_mul_right (256 ^ bs.length) (Nat.succ_le_of_lt hb)
      rw [Nat.succ_mul] at this
      exact this
    simp only [be, List.length_cons, pow_succ]
    omega

theorem be_append (as bs : List Byte) : be (as ++ bs) = be as * 256 ^ bs.length + be bs := by
  induction as with
  | nil => simp [be]
  | cons a as ih => simp only [List.cons_append, be, List.length_append, ih]; ring

/-- Encoding in `n` bytes and reading back keeps the number modulo `256 ^ n`. -/
theorem be_beBytes (n v : Nat) : be (beBytes n v) = v % 256 ^ n := by
  induction n with
  | zero => simp [beBytes, be, Nat.mod_one]
  | succ n ih =>
    simp only [beBytes, be, beBytes_length, ih, BitVec.toNat_ofNat, pow_succ]
    rw [Nat.mod_mul (a := 256 ^ n) (b := 256)]
    norm_num
    ring

theorem be_beBytes_word (v : Word) : be (beBytes 32 v.toNat) = v.toNat := by
  rw [be_beBytes, Nat.mod_eq_of_lt]
  exact v.isLt

@[simp] theorem be32_toList (v : Word) : (be32 v).toList = beBytes 32 v.toNat := rfl

/-! ## Reads of the buffer -/

theorem memRead_length (m : Memory) (addr n : Nat) (h : addr + n ≤ m.length) :
    (memRead m addr n).length = n := by
  simp only [memRead, List.length_take, List.length_drop]
  omega

/-- A read inside the second part of a joined buffer. -/
theorem memRead_append_right (as bs : List Byte) (k n : Nat) :
    memRead (as ++ bs) (as.length + k) n = memRead bs k n := by
  simp [memRead, ← List.drop_drop]

/-- A read of exactly the first part of a joined buffer. -/
theorem memRead_append_left (as bs : List Byte) : memRead (as ++ bs) 0 as.length = as := by
  simp [memRead]

/-- The word at the front of a payload. -/
theorem payloadWord_front (v : Word) (rest : List Byte) :
    payloadWord (beBytes 32 v.toNat ++ rest) 0 = v := by
  have h := memRead_append_left (beBytes 32 v.toNat) rest
  rw [beBytes_length] at h
  rw [payloadWord, h, be_beBytes_word]
  simp

/-- The word at an offset behind a first part. -/
theorem payloadWord_skip (as bs : List Byte) (k : Nat) :
    payloadWord (as ++ bs) (as.length + k) = payloadWord bs k := by
  rw [payloadWord, payloadWord, memRead_append_right]

/-! ## The form of a buffer -/

/-- The pairs of a buffer have rising addresses. -/
theorem Memory.cells_rising (m : Memory) : (m.cells.map Prod.fst).Pairwise (· < ·) := by
  have h : m.cells.map Prod.fst = List.range m.length := by
    simp [Memory.cells, List.map_map, Function.comp_def, List.zipIdx_map_snd, List.range_eq_range']
  rw [h]
  exact List.pairwise_lt_range

/-- Buffers with equal pairs are equal. -/
theorem Memory.cells_injective {m n : Memory} (h : m.cells = n.cells) : m = n := by
  have key : ∀ l : Memory, l.cells.map Prod.snd = l := by
    intro l
    simp [Memory.cells, List.map_map, Function.comp_def, List.zipIdx_map_fst]
  rw [← key m, ← key n, h]

end Sys2Proof.Machine
end

