-- ==== Sys2Proof/Laws/Field.lean ====
section
/-! SUPPORT. Laws/Field.lean: what the validator and the reductions can answer. -/

namespace Sys2Proof.Machine

theorem P_pos : 0 < Config.P := by decide

theorem P_lt_word : Config.P < 2 ^ 256 := by decide

theorem reduce_lt (v : Nat) : reduce v < Config.P := Nat.mod_lt _ P_pos

theorem fadd_lt (a b : Nat) : fadd a b < Config.P := reduce_lt _

theorem fmul_lt (a b : Nat) : fmul a b < Config.P := reduce_lt _

/-- A number below `2^256` survives the conversion to a register and back. -/
theorem toInternal_toExternal {r : Nat} (h : r < 2 ^ 256) : toInternal (toExternal r) = r := by
  simp only [toInternal, toExternal, BitVec.toNat_ofNat]
  exact Nat.mod_eq_of_lt h

theorem toExternal_toInternal (x : Word) : toExternal (toInternal x) = x := by
  simp [toInternal, toExternal]

theorem toInternal_toExternal_reduced {r : Nat} (h : r < Config.P) :
    toInternal (toExternal r) = r :=
  toInternal_toExternal (h.trans P_lt_word)

/-- Everything `validate` can answer. -/
theorem validate_cases (x : Word) :
    (x.toNat < Config.P ∧ validate x = .ok x) ∨
    (Config.P ≤ x.toNat ∧ validate x = .error (.fieldElementTooLarge x)) := by
  by_cases h : x.toNat < Config.P
  · exact .inl ⟨h, by simp [validate, h]⟩
  · exact .inr ⟨by omega, by simp [validate, h]⟩

theorem validate_of_lt {x : Word} (h : x.toNat < Config.P) : validate x = .ok x := by
  simp [validate, h]

theorem validate_of_ge {x : Word} (h : Config.P ≤ x.toNat) :
    validate x = .error (.fieldElementTooLarge x) := by
  simp [validate, Nat.not_lt.mpr h]

theorem validateAll_of_lt {es : List Word} (h : ∀ e ∈ es, e.toNat < Config.P) :
    validateAll es = .ok () := by
  induction es with
  | nil => rfl
  | cons e es ih =>
    rw [validateAll, validate_of_lt (h e (by simp))]
    exact ih fun x hx => h x (by simp [hx])

/-- Everything `validateAll` can answer (R91): all elements pass, or the first that fails is reported. -/
theorem validateAll_cases (es : List Word) :
    ((∀ e ∈ es, e.toNat < Config.P) ∧ validateAll es = .ok ()) ∨
    (∃ good bad rest, es = good ++ bad :: rest ∧ (∀ e ∈ good, e.toNat < Config.P) ∧
      Config.P ≤ bad.toNat ∧ validateAll es = .error (.fieldElementTooLarge bad)) := by
  induction es with
  | nil => exact .inl ⟨by simp, rfl⟩
  | cons e es ih =>
    rcases validate_cases e with ⟨hlt, hv⟩ | ⟨hge, hv⟩
    · rcases ih with ⟨hall, hr⟩ | ⟨good, bad, rest, hes, hgood, hbad, hr⟩
      · exact .inl ⟨by simpa [hlt] using hall, by rw [validateAll, hv]; exact hr⟩
      · exact .inr ⟨e :: good, bad, rest, by simp [hes], by simpa [hlt] using hgood, hbad,
          by rw [validateAll, hv]; exact hr⟩
    · exact .inr ⟨[], e, es, rfl, by simp, hge, by rw [validateAll, hv]⟩

/-! ## The hash functions stay below `P` -/

theorem round_lt (result x i : Nat) : round result x i < Config.P := fmul_lt _ _

theorem roundsUpTo_lt_word {x : Nat} (hx : x < 2 ^ 256) (n : Nat) : roundsUpTo x n < 2 ^ 256 := by
  cases n with
  | zero => exact hx
  | succ n => exact (round_lt _ _ _).trans P_lt_word

theorem hashSingle_lt (x : Nat) : hashSingle x < Config.P := round_lt _ _ _

theorem hashPair_lt (left right : Nat) : hashPair left right < Config.P := hashSingle_lt _

end Sys2Proof.Machine
end

