-- ==== Sys2Proof/Laws/State.lean ====
section
/-! SUPPORT. Laws/State.lean: what each update of the state and of the datapath does to each field, by rfl. -/

namespace Sys2Proof.Machine

/-! ## Updates of the state -/

@[simp] theorem State.advance_phase (s : State) : s.advance.phase = s.phase := rfl
@[simp] theorem State.advance_req (s : State) : s.advance.req = s.req := rfl
@[simp] theorem State.advance_rsp (s : State) : s.advance.rsp = s.rsp := rfl
@[simp] theorem State.advance_dp (s : State) : s.advance.dp = s.dp := rfl
@[simp] theorem State.advance_rstHeld (s : State) : s.advance.rstHeld = s.rstHeld := rfl
@[simp] theorem State.advance_busyLeft (s : State) : s.advance.busyLeft = s.busyLeft := rfl
@[simp] theorem State.advance_draws (s : State) : s.advance.draws = s.draws := rfl
@[simp] theorem State.advance_host (s : State) : s.advance.host = s.host.tail := rfl
@[simp] theorem State.advance_observed (s : State) : s.advance.observed = s.observed := rfl

@[simp] theorem State.setDp_phase (d : Datapath) (s : State) : (s.setDp d).phase = s.phase := rfl
@[simp] theorem State.setDp_req (d : Datapath) (s : State) : (s.setDp d).req = s.req := rfl
@[simp] theorem State.setDp_rsp (d : Datapath) (s : State) : (s.setDp d).rsp = s.rsp := rfl
@[simp] theorem State.setDp_dp (d : Datapath) (s : State) : (s.setDp d).dp = d := rfl
@[simp] theorem State.setDp_rstHeld (d : Datapath) (s : State) : (s.setDp d).rstHeld = s.rstHeld := rfl
@[simp] theorem State.setDp_busyLeft (d : Datapath) (s : State) : (s.setDp d).busyLeft = s.busyLeft := rfl
@[simp] theorem State.setDp_draws (d : Datapath) (s : State) : (s.setDp d).draws = s.draws := rfl
@[simp] theorem State.setDp_host (d : Datapath) (s : State) : (s.setDp d).host = s.host := rfl
@[simp] theorem State.setDp_observed (d : Datapath) (s : State) : (s.setDp d).observed = s.observed := rfl

@[simp] theorem State.complete_phase (v : Word) (s : State) : (s.complete v).phase = .done := rfl
@[simp] theorem State.complete_req (v : Word) (s : State) : (s.complete v).req = s.req := rfl
@[simp] theorem State.complete_rsp (v : Word) (s : State) : (s.complete v).rsp = ⟨statusOk, be32 v, 0⟩ := rfl
@[simp] theorem State.complete_dp (v : Word) (s : State) : (s.complete v).dp = s.dp := rfl
@[simp] theorem State.complete_rstHeld (v : Word) (s : State) : (s.complete v).rstHeld = s.rstHeld := rfl
@[simp] theorem State.complete_busyLeft (v : Word) (s : State) : (s.complete v).busyLeft = s.busyLeft := rfl
@[simp] theorem State.complete_draws (v : Word) (s : State) : (s.complete v).draws = s.draws := rfl
@[simp] theorem State.complete_host (v : Word) (s : State) : (s.complete v).host = s.host := rfl
@[simp] theorem State.complete_observed (v : Word) (s : State) : (s.complete v).observed = s.observed := rfl

@[simp] theorem State.raise_phase (e : Raised) (s : State) : (s.raise e).phase = .done := rfl
@[simp] theorem State.raise_req (e : Raised) (s : State) : (s.raise e).req = s.req := rfl
@[simp] theorem State.raise_rsp (e : Raised) (s : State) :
    (s.raise e).rsp = ⟨e.code, Config.freeResponseWord s.draws, e.info⟩ := rfl
@[simp] theorem State.raise_dp (e : Raised) (s : State) : (s.raise e).dp = s.dp := rfl
@[simp] theorem State.raise_rstHeld (e : Raised) (s : State) : (s.raise e).rstHeld = s.rstHeld := rfl
@[simp] theorem State.raise_busyLeft (e : Raised) (s : State) : (s.raise e).busyLeft = s.busyLeft := rfl
@[simp] theorem State.raise_draws (e : Raised) (s : State) : (s.raise e).draws = s.draws + 1 := rfl
@[simp] theorem State.raise_host (e : Raised) (s : State) : (s.raise e).host = s.host := rfl
@[simp] theorem State.raise_observed (e : Raised) (s : State) : (s.raise e).observed = s.observed := rfl

@[simp] theorem State.latch_phase (r : Request) (s : State) : (s.latch r).phase = .busy := rfl
@[simp] theorem State.latch_req (r : Request) (s : State) : (s.latch r).req = r := rfl
@[simp] theorem State.latch_rsp (r : Request) (s : State) : (s.latch r).rsp = s.rsp := rfl
@[simp] theorem State.latch_dp (r : Request) (s : State) : (s.latch r).dp = s.dp := rfl
@[simp] theorem State.latch_rstHeld (r : Request) (s : State) : (s.latch r).rstHeld = s.rstHeld := rfl
@[simp] theorem State.latch_busyLeft (r : Request) (s : State) : (s.latch r).busyLeft = Config.latency s.draws := rfl
@[simp] theorem State.latch_draws (r : Request) (s : State) : (s.latch r).draws = s.draws + 1 := rfl
@[simp] theorem State.latch_host (r : Request) (s : State) : (s.latch r).host = s.host := rfl
@[simp] theorem State.latch_observed (r : Request) (s : State) : (s.latch r).observed = s.observed := rfl

@[simp] theorem State.deliver_phase (s : State) : s.deliver.phase = .idle := rfl
@[simp] theorem State.deliver_req (s : State) : s.deliver.req = s.req := rfl
@[simp] theorem State.deliver_rsp (s : State) : s.deliver.rsp = s.rsp := rfl
@[simp] theorem State.deliver_dp (s : State) : s.deliver.dp = s.dp := rfl
@[simp] theorem State.deliver_rstHeld (s : State) : s.deliver.rstHeld = s.rstHeld := rfl
@[simp] theorem State.deliver_busyLeft (s : State) : s.deliver.busyLeft = s.busyLeft := rfl
@[simp] theorem State.deliver_draws (s : State) : s.deliver.draws = s.draws := rfl
@[simp] theorem State.deliver_host (s : State) : s.deliver.host = s.host := rfl
@[simp] theorem State.deliver_observed (s : State) : s.deliver.observed = s.observed ++ [(s.req, s.rsp)] := rfl

/-! ## The chainer's registers after reset are in the ranges of R23 -/

theorem Ac.unspecified_n_le (k : Nat) : (Ac.unspecified k).n ≤ Config.maxN := by
  simp only [Ac.n, Ac.unspecified, List.length_take]
  omega

theorem Ac.lastIndex_pos (elem : List Word) : 1 ≤ Ac.lastIndex elem := by
  unfold Ac.lastIndex
  split
  · omega
  · exact List.length_pos_iff.mpr ‹_›

theorem Ac.unspecified_k_pos (k : Nat) : 1 ≤ (Ac.unspecified k).k := Nat.le_add_right 1 _

theorem Ac.unspecified_k_le (k : Nat) : (Ac.unspecified k).k ≤ Ac.lastIndex (Ac.unspecified k).elem := by
  have := Nat.mod_lt (Config.freeNat (16 * k + 12)) (Ac.lastIndex_pos (Ac.unspecified k).elem)
  simp only [Ac.unspecified] at this ⊢
  omega

@[simp] theorem Datapath.unspecified_ac (k : Nat) (work : Work) :
    (Datapath.unspecified k work).ac = Ac.unspecified k := rfl

@[simp] theorem State.enterReset_phase (held : Bool) (s : State) : (s.enterReset held).phase = .idle := rfl
@[simp] theorem State.enterReset_req (held : Bool) (s : State) : (s.enterReset held).req = Request.unspecified s.draws := rfl
@[simp] theorem State.enterReset_rsp (held : Bool) (s : State) : (s.enterReset held).rsp = Response.unspecified s.draws := rfl
@[simp] theorem State.enterReset_dp (held : Bool) (s : State) : (s.enterReset held).dp = Datapath.unspecified s.draws s.dp.work := rfl
@[simp] theorem State.enterReset_rstHeld (held : Bool) (s : State) : (s.enterReset held).rstHeld = held := rfl
@[simp] theorem State.enterReset_busyLeft (held : Bool) (s : State) : (s.enterReset held).busyLeft = 0 := rfl
@[simp] theorem State.enterReset_draws (held : Bool) (s : State) : (s.enterReset held).draws = s.draws + 1 := rfl
@[simp] theorem State.enterReset_host (held : Bool) (s : State) : (s.enterReset held).host = s.host := rfl
@[simp] theorem State.enterReset_observed (held : Bool) (s : State) : (s.enterReset held).observed = s.observed := rfl

@[simp] theorem State.stayBusy_phase (s : State) : s.stayBusy.phase = s.phase := rfl
@[simp] theorem State.stayBusy_req (s : State) : s.stayBusy.req = s.req := rfl
@[simp] theorem State.stayBusy_rsp (s : State) : s.stayBusy.rsp = s.rsp := rfl
@[simp] theorem State.stayBusy_dp (s : State) : s.stayBusy.dp = s.dp := rfl
@[simp] theorem State.stayBusy_rstHeld (s : State) : s.stayBusy.rstHeld = s.rstHeld := rfl
@[simp] theorem State.stayBusy_busyLeft (s : State) : s.stayBusy.busyLeft = s.busyLeft - 1 := rfl
@[simp] theorem State.stayBusy_draws (s : State) : s.stayBusy.draws = s.draws := rfl
@[simp] theorem State.stayBusy_host (s : State) : s.stayBusy.host = s.host := rfl
@[simp] theorem State.stayBusy_observed (s : State) : s.stayBusy.observed = s.observed := rfl

@[simp] theorem State.withRequest_phase (r : Request) (s : State) : (s.withRequest r).phase = .busy := rfl
@[simp] theorem State.withRequest_req (r : Request) (s : State) : (s.withRequest r).req = r := rfl
@[simp] theorem State.withRequest_rsp (r : Request) (s : State) : (s.withRequest r).rsp = s.rsp := rfl
@[simp] theorem State.withRequest_dp (r : Request) (s : State) : (s.withRequest r).dp = s.dp := rfl
@[simp] theorem State.withRequest_rstHeld (r : Request) (s : State) : (s.withRequest r).rstHeld = false := rfl
@[simp] theorem State.withRequest_busyLeft (r : Request) (s : State) : (s.withRequest r).busyLeft = 0 := rfl
@[simp] theorem State.withRequest_draws (r : Request) (s : State) : (s.withRequest r).draws = s.draws := rfl
@[simp] theorem State.withRequest_host (r : Request) (s : State) :
    (s.withRequest r).host = s.host.modifyHead fun p => { p with rst := false } := rfl
@[simp] theorem State.withRequest_observed (r : Request) (s : State) : (s.withRequest r).observed = s.observed := rfl

/-! ## Updates of the datapath -/

@[simp] theorem Datapath.peStart_pe (x : Word) (d : Datapath) :
    (d.peStart x).pe = { d.pe with x := x, result := x, i := 0 } := rfl
@[simp] theorem Datapath.peStart_pm (x : Word) (d : Datapath) : (d.peStart x).pm = d.pm := rfl
@[simp] theorem Datapath.peStart_ac (x : Word) (d : Datapath) : (d.peStart x).ac = d.ac := rfl
@[simp] theorem Datapath.peStart_work (x : Word) (d : Datapath) :
    (d.peStart x).work = { d.work with permutations := d.work.permutations + 1 } := rfl

@[simp] theorem Datapath.peSave_pe (d : Datapath) : d.peSave.pe = { d.pe with t := d.pe.result } := rfl
@[simp] theorem Datapath.peSave_pm (d : Datapath) : d.peSave.pm = d.pm := rfl
@[simp] theorem Datapath.peSave_ac (d : Datapath) : d.peSave.ac = d.ac := rfl
@[simp] theorem Datapath.peSave_work (d : Datapath) : d.peSave.work = d.work := rfl

@[simp] theorem Datapath.peNext_pe (d : Datapath) : d.peNext.pe = { d.pe with i := d.pe.i + 1 } := rfl
@[simp] theorem Datapath.peNext_pm (d : Datapath) : d.peNext.pm = d.pm := rfl
@[simp] theorem Datapath.peNext_ac (d : Datapath) : d.peNext.ac = d.ac := rfl
@[simp] theorem Datapath.peNext_work (d : Datapath) :
    d.peNext.work = { d.work with rounds := d.work.rounds + 1 } := rfl

@[simp] theorem Datapath.peMul_pe (a b : Word) (d : Datapath) :
    (d.peMul a b).pe = { d.pe with result := toExternal (fmul (toInternal a) (toInternal b)) } := rfl
@[simp] theorem Datapath.peMul_pm (a b : Word) (d : Datapath) : (d.peMul a b).pm = d.pm := rfl
@[simp] theorem Datapath.peMul_ac (a b : Word) (d : Datapath) : (d.peMul a b).ac = d.ac := rfl
@[simp] theorem Datapath.peMul_work (a b : Word) (d : Datapath) :
    (d.peMul a b).work = { d.work with fmuls := d.work.fmuls + 1 } := rfl

@[simp] theorem Datapath.countMix_pe (d : Datapath) : d.countMix.pe = d.pe := rfl
@[simp] theorem Datapath.countMix_pm (d : Datapath) : d.countMix.pm = d.pm := rfl
@[simp] theorem Datapath.countMix_ac (d : Datapath) : d.countMix.ac = d.ac := rfl
@[simp] theorem Datapath.countMix_work (d : Datapath) :
    d.countMix.work = { d.work with mixes := d.work.mixes + 1 } := rfl

@[simp] theorem Datapath.pmKeep_pe (d : Datapath) : d.pmKeep.pe = d.pe := rfl
@[simp] theorem Datapath.pmKeep_pm (d : Datapath) :
    d.pmKeep.pm = { d.pm with intermediate := d.pe.result, phase := .pmSecond } := rfl
@[simp] theorem Datapath.pmKeep_ac (d : Datapath) : d.pmKeep.ac = d.ac := rfl
@[simp] theorem Datapath.pmKeep_work (d : Datapath) : d.pmKeep.work = d.work := rfl

@[simp] theorem Datapath.pmFinish_pe (d : Datapath) : d.pmFinish.pe = d.pe := rfl
@[simp] theorem Datapath.pmFinish_pm (d : Datapath) : d.pmFinish.pm = { d.pm with phase := .pmDone } := rfl
@[simp] theorem Datapath.pmFinish_ac (d : Datapath) : d.pmFinish.ac = d.ac := rfl
@[simp] theorem Datapath.pmFinish_work (d : Datapath) : d.pmFinish.work = d.work := rfl

@[simp] theorem Datapath.pmTake_pe (d : Datapath) : d.pmTake.pe = d.pe := rfl
@[simp] theorem Datapath.pmTake_pm (d : Datapath) : d.pmTake.pm = { d.pm with phase := .pmIdle } := rfl
@[simp] theorem Datapath.pmTake_ac (d : Datapath) : d.pmTake.ac = d.ac := rfl
@[simp] theorem Datapath.pmTake_work (d : Datapath) : d.pmTake.work = d.work := rfl

@[simp] theorem Datapath.acLoad_pe (elems : List Word) (d : Datapath) : (d.acLoad elems).pe = d.pe := rfl
@[simp] theorem Datapath.acLoad_pm (elems : List Word) (d : Datapath) : (d.acLoad elems).pm = d.pm := rfl
@[simp] theorem Datapath.acLoad_ac (elems : List Word) (d : Datapath) : (d.acLoad elems).ac = { d.ac with elem := elems } := rfl
@[simp] theorem Datapath.acLoad_work (elems : List Word) (d : Datapath) : (d.acLoad elems).work = d.work := rfl

@[simp] theorem Datapath.acStart_pe (d : Datapath) : d.acStart.pe = d.pe := rfl
@[simp] theorem Datapath.acStart_pm (d : Datapath) : d.acStart.pm = d.pm := rfl
@[simp] theorem Datapath.acStart_ac (d : Datapath) : d.acStart.ac = { d.ac with acc := d.ac.at 0, k := 1 } := rfl
@[simp] theorem Datapath.acStart_work (d : Datapath) : d.acStart.work = d.work := rfl

@[simp] theorem Datapath.acTake_pe (d : Datapath) : d.acTake.pe = d.pe := rfl
@[simp] theorem Datapath.acTake_pm (d : Datapath) : d.acTake.pm = d.pm := rfl
@[simp] theorem Datapath.acTake_ac (d : Datapath) :
    d.acTake.ac = { d.ac with acc := d.pe.result, k := d.ac.k + 1 } := rfl
@[simp] theorem Datapath.acTake_work (d : Datapath) : d.acTake.work = d.work := rfl

end Sys2Proof.Machine
end

