-- ==== Sys2Proof/Laws/Engine.lean ====
section
/-! SUPPORT. Laws/Engine.lean: everything a run of the engine, of the pair mixer and of the chainer does to the
working registers. -/

namespace Sys2Proof.Machine

/-! ## The model's work count -/

/-- The work count grown by the work of some permutations, each with its 8 rounds, and some mixes. -/
def Work.plus (w : Work) (permutations mixes : Nat) : Work :=
  ⟨w.permutations + permutations, w.rounds + 8 * permutations, w.fadds + 8 * permutations,
    w.fmuls + 24 * permutations, w.mixes + mixes⟩

theorem Work.plus_plus (w : Work) (p m p' m' : Nat) :
    (w.plus p m).plus p' m' = w.plus (p + p') (m + m') := by
  simp only [Work.plus, Work.mk.injEq]
  omega

/-! ## The engine -/

/-- One round of the sequencer (R77) computes `round` of R75 into `pe.result`. -/
theorem Datapath.peRound_spec (d : Datapath) :
    d.peRound =
      { d with
        pe := { x := d.pe.x
                result := toExternal (round d.pe.result.toNat d.pe.x.toNat d.pe.i.toNat)
                t := toExternal (fadd d.pe.result.toNat (rc d.pe.x.toNat d.pe.i.toNat))
                i := d.pe.i + 1 }
        work := { d.work with
          rounds := d.work.rounds + 1, fadds := d.work.fadds + 1, fmuls := d.work.fmuls + 3 } } := by
  have h : ∀ a b, (toExternal (fmul a b)).toNat = fmul a b := fun a b =>
    toInternal_toExternal_reduced (fmul_lt a b)
  have h' : ∀ a b, (toExternal (fadd a b)).toNat = fadd a b := fun a b =>
    toInternal_toExternal_reduced (fadd_lt a b)
  simp [Datapath.peRound, Datapath.peAddConstant, Datapath.peSbox, Datapath.peSave,
    Datapath.peSquareSaved, Datapath.peSquareResult, Datapath.peMulSaved, Datapath.peMul,
    Datapath.peNext, toInternal, h, h', round, sbox]

/-- After a start and `n` rounds. -/
theorem Datapath.peRound_iterate (x : Word) (d : Datapath) (n : Nat) (hn : n ≤ 8) :
    ∃ t, Datapath.peRound^[n] (d.peStart x) =
      { d with
        pe := { x := x, result := toExternal (roundsUpTo x.toNat n), t := t, i := BitVec.ofNat 4 n }
        work := { d.work with
          permutations := d.work.permutations + 1
          rounds := d.work.rounds + n
          fadds := d.work.fadds + n
          fmuls := d.work.fmuls + 3 * n } } := by
  induction n with
  | zero => exact ⟨d.pe.t, by simp [Datapath.peStart, roundsUpTo, toExternal]⟩
  | succ n ih =>
    obtain ⟨t, ht⟩ := ih (by omega)
    have hr : (toExternal (roundsUpTo x.toNat n)).toNat = roundsUpTo x.toNat n :=
      toInternal_toExternal (roundsUpTo_lt_word x.isLt n)
    have hi : (BitVec.ofNat 4 n).toNat = n := by
      rw [BitVec.toNat_ofNat]; exact Nat.mod_eq_of_lt (by omega)
    refine ⟨toExternal (fadd (roundsUpTo x.toNat n) (rc x.toNat n)), ?_⟩
    rw [Function.iterate_succ_apply', ht, Datapath.peRound_spec]
    simp only [hr, hi, roundsUpTo, BitVec.ofNat_add, Datapath.mk.injEq, Work.mk.injEq, Pe.mk.injEq,
      true_and, and_true]
    exact ⟨rfl, by omega⟩

/-- The loop is as many rounds as its guard lets through. -/
theorem Datapath.peLoop_eq_iterate (fuel : Nat) (d : Datapath) (h : d.pe.i.toNat + fuel = 8) :
    Datapath.peLoop fuel d = Datapath.peRound^[fuel] d := by
  induction fuel generalizing d with
  | zero => rfl
  | succ fuel ih =>
    have hlt : d.pe.i.toNat < Config.fullRounds := by simp only [Config.fullRounds]; omega
    have hi : (d.peRound.pe.i).toNat = d.pe.i.toNat + 1 := by
      have hone : (1 : BitVec 4).toNat = 1 := rfl
      rw [Datapath.peRound_spec]
      simp only [BitVec.toNat_add, hone]
      omega
    rw [Datapath.peLoop, if_pos hlt, Function.iterate_succ_apply]
    exact ih _ (by omega)

/-- Everything a run of the engine does (R76, R77): `pe.result` holds `hash_single` of the input after exactly 8
rounds; the other units are untouched. -/
theorem Datapath.peRun_spec (x : Word) (d : Datapath) :
    ∃ t, d.peRun x =
      { d with
        pe := { x := x, result := toExternal (hashSingle x.toNat), t := t, i := 8 }
        work := d.work.plus 1 0 } := by
  obtain ⟨t, ht⟩ := Datapath.peRound_iterate x d 8 (by omega)
  refine ⟨t, ?_⟩
  rw [Datapath.peRun, Config.fullRounds, Datapath.peLoop_eq_iterate 8 (d.peStart x) (by simp), ht]
  rfl

/-! ## The pair mixer -/

/-- Everything a run of the pair mixer does (R83, R84). -/
theorem Datapath.pmRun_spec (left right : Word) (d : Datapath) :
    ∃ x t, d.pmRun left right =
      { d with
        pe := { x := x, result := toExternal (hashPair left.toNat right.toNat), t := t, i := 8 }
        pm := { left := left
                right := right
                intermediate := toExternal (hashSingle (reduce (left.toNat + right.toNat + 1)))
                phase := .pmIdle }
        work := d.work.plus 2 2 } := by
  obtain ⟨t₁, h₁⟩ := Datapath.peRun_spec (toExternal (reduce (toInternal left + toInternal right + 1)))
    { d with pm := { d.pm with left := left, right := right, phase := .pmFirst } }.countMix
  have hc : (toExternal (reduce (toInternal left + toInternal right + 1))).toNat =
      reduce (left.toNat + right.toNat + 1) := toInternal_toExternal_reduced (reduce_lt _)
  have hs : ∀ y, (toExternal (hashSingle y)).toNat = hashSingle y := fun y =>
    toInternal_toExternal_reduced (hashSingle_lt y)
  have hm : ∀ y, (toExternal (reduce y)).toNat = reduce y := fun y =>
    toInternal_toExternal_reduced (reduce_lt y)
  obtain ⟨t₂, h₂⟩ := Datapath.peRun_spec (d.pmFirst left right).pmKeep.pmRemixed
    (d.pmFirst left right).pmKeep.countMix
  refine ⟨(d.pmFirst left right).pmKeep.pmRemixed, t₂, ?_⟩
  rw [Datapath.pmRun, Datapath.pmSecond, h₂]
  have h₃ : d.pmFirst left right = _ := h₁
  rw [h₃]
  simp only [Datapath.pmKeep, Datapath.pmFinish, Datapath.pmTake, Datapath.pmRemixed, Datapath.countMix,
    toInternal, hs, hm, hashPair, Work.plus]

/-! ## The chainer -/

/-- The fold loop (R92), from a state whose elements split at `ac.k`. -/
theorem Datapath.acLoop_spec (fuel : Nat) (d : Datapath) (before rest : List Word)
    (hsplit : d.ac.elem = before ++ rest) (hk : d.ac.k = before.length) (hfuel : rest.length ≤ fuel) :
    ∃ pe pm, Datapath.acLoop fuel d =
      { pe := pe
        pm := pm
        ac := { elem := d.ac.elem, k := d.ac.n, acc := toExternal (foldPairs d.ac.acc.toNat rest) }
        work := d.work.plus (2 * rest.length) (2 * rest.length) } ∧
      (rest = [] → pe = d.pe ∧ pm = d.pm) ∧ (rest ≠ [] → pm.phase = .pmIdle) := by
  induction fuel generalizing d before rest with
  | zero =>
    obtain rfl : rest = [] := List.eq_nil_of_length_eq_zero (by omega)
    refine ⟨d.pe, d.pm, ?_, by simp, by simp⟩
    obtain ⟨pe, pm, ⟨elem, k, acc⟩, work⟩ := d
    simp_all [Datapath.acLoop, Ac.n, foldPairs, toExternal, Work.plus]
  | succ fuel ih =>
    cases rest with
    | nil =>
      refine ⟨d.pe, d.pm, ?_, by simp, by simp⟩
      obtain ⟨pe, pm, ⟨elem, k, acc⟩, work⟩ := d
      simp_all [Datapath.acLoop, Ac.n, foldPairs, toExternal, Work.plus]
    | cons e rest =>
      have hlt : d.ac.k < d.ac.n := by simp [Ac.n, hsplit, hk]
      have hat : d.ac.at d.ac.k = e := by simp [Ac.at, hsplit, hk]
      obtain ⟨x, t, hrun⟩ := Datapath.pmRun_spec d.ac.acc e d
      have hfold : d.acFold = (d.pmRun d.ac.acc e).acTake := by rw [Datapath.acFold, hat]
      rw [hrun] at hfold
      obtain ⟨pe, pm, h, hnil, hcons⟩ := ih d.acFold (before ++ [e]) rest
        (by rw [hfold]; simp [hsplit]) (by rw [hfold]; simp [hk])
        (by simp only [List.length_cons] at hfuel; omega)
      have hp : (toExternal (hashPair d.ac.acc.toNat e.toNat)).toNat = hashPair d.ac.acc.toNat e.toNat :=
        toInternal_toExternal_reduced (hashPair_lt _ _)
      refine ⟨pe, pm, ?_, by simp, fun _ => ?_⟩
      · rw [Datapath.acLoop, if_pos hlt, h, hfold]
        simp only [Datapath.acTake_ac, Datapath.acTake_work, hp, Ac.n, Work.plus_plus, foldPairs,
          List.foldl_cons, List.length_cons]
        congr 2 <;> omega
      · by_cases hr : rest = []
        · rw [(hnil hr).2, hfold]; rfl
        · exact hcons hr

/-- Everything the whole fold does on a loaded, non-empty array (R92, R95). -/
theorem Datapath.acRun_spec (d : Datapath) (e : Word) (es : List Word) (h : d.ac.elem = e :: es) :
    ∃ pe pm, d.acRun =
      { pe := pe
        pm := pm
        ac := { elem := e :: es, k := es.length + 1, acc := toExternal (foldPairs e.toNat es) }
        work := d.work.plus (2 * es.length) (2 * es.length) } ∧
      (es = [] → pe = d.pe ∧ pm = d.pm) ∧ (es ≠ [] → pm.phase = .pmIdle) := by
  obtain ⟨pe, pm, hr, hnil, hcons⟩ := Datapath.acLoop_spec d.ac.n d.acStart [e] es
    (by simp [h]) rfl (by simp [Ac.n, h])
  refine ⟨pe, pm, ?_, hnil, hcons⟩
  rw [Datapath.acRun, hr]
  simp [h, Ac.n, Ac.at]

end Sys2Proof.Machine
end

