-- ==== Sys2Proof/Laws/Operands.lean ====
section
/-! SUPPORT. Laws/Operands.lean: everything the three ABI decodes can answer (R98 to R100). -/

namespace Sys2Proof.Machine

theorem decodeP1_cases (strict : Bool) (p : List Byte) :
    (p.length < 32 ∧ decodeP1 strict p = .error (.abiDecodeError .short)) ∨
    (32 < p.length ∧ strict = true ∧ decodeP1 strict p = .error (.abiDecodeError .nonCanonical)) ∨
    (32 ≤ p.length ∧ (strict = true → p.length = 32) ∧ decodeP1 strict p = .ok (payloadWord p 0)) := by
  unfold decodeP1
  split
  · exact .inl ⟨‹_›, rfl⟩
  · split
    · rename_i h₁ h₂
      exact .inr (.inl ⟨by omega, h₂.2, rfl⟩)
    · rename_i h₁ h₂
      exact .inr (.inr ⟨by omega, fun hs => by by_contra h; exact h₂ ⟨h, hs⟩, rfl⟩)

theorem decodeP2_cases (strict : Bool) (p : List Byte) :
    (p.length < 64 ∧ decodeP2 strict p = .error (.abiDecodeError .short)) ∨
    (64 < p.length ∧ strict = true ∧ decodeP2 strict p = .error (.abiDecodeError .nonCanonical)) ∨
    (64 ≤ p.length ∧ (strict = true → p.length = 64) ∧
      decodeP2 strict p = .ok (payloadWord p 0, payloadWord p 32)) := by
  unfold decodeP2
  split
  · exact .inl ⟨‹_›, rfl⟩
  · split
    · rename_i h₁ h₂
      exact .inr (.inl ⟨by omega, h₂.2, rfl⟩)
    · rename_i h₁ h₂
      exact .inr (.inr ⟨by omega, fun hs => by by_contra h; exact h₂ ⟨h, hs⟩, rfl⟩)

/-- The dynamic-array decode, with the offset `o` and the count `n` it reads. -/
theorem decodePN_cases (strict : Bool) (p : List Byte) (o n : Nat)
    (ho : o = (payloadWord p 0).toNat) (hn : n = (payloadWord p o).toNat) :
    (p.length < 32 ∧ decodePN strict p = .error (.abiDecodeError .short)) ∨
    (32 ≤ p.length ∧ p.length < o + 32 ∧ decodePN strict p = .error (.abiDecodeError .offset)) ∨
    (o + 32 ≤ p.length ∧ p.length < o + 32 + 32 * n ∧
      decodePN strict p = .error (.abiDecodeError .length)) ∨
    (o + 32 + 32 * n ≤ p.length ∧ strict = true ∧ ¬(o = 32 ∧ p.length = 64 + 32 * n) ∧
      decodePN strict p = .error (.abiDecodeError .nonCanonical)) ∨
    (o + 32 + 32 * n ≤ p.length ∧ (strict = true → o = 32 ∧ p.length = 64 + 32 * n) ∧
      decodePN strict p = .ok (arrayElems p o n)) := by
  subst ho
  subst hn
  unfold decodePN
  split
  · exact .inl ⟨‹_›, rfl⟩
  rename_i h₁
  dsimp only
  split
  · rename_i h₂
    exact .inr (.inl ⟨by omega, by omega, rfl⟩)
  rename_i h₂
  split
  · rename_i h₃
    exact .inr (.inr (.inl ⟨by omega, by omega, rfl⟩))
  rename_i h₃
  split
  · rename_i h₄
    exact .inr (.inr (.inr (.inl ⟨by omega, h₄.2, by tauto, rfl⟩)))
  · rename_i h₄
    exact .inr (.inr (.inr (.inr ⟨by omega, by tauto, rfl⟩)))

/-! ## How many elements a decode answers (R23) -/

@[simp] theorem maxElements_strict : maxElements true = Config.maxN := rfl

@[simp] theorem maxElements_lenient : maxElements false = (Config.maxCalldata - 37) / 32 := rfl

theorem maxN_le_maxElements (strict : Bool) : Config.maxN ≤ maxElements strict := by
  cases strict <;> simp only [maxElements_strict, maxElements_lenient, Config.maxN] <;> omega

theorem maxElements_le (strict : Bool) : maxElements strict ≤ Config.maxN + 1 := by
  cases strict <;> simp only [maxElements_strict, maxElements_lenient, Config.maxN] <;> omega

@[simp] theorem arrayElems_length (p : List Byte) (o n : Nat) : (arrayElems p o n).length = n := by
  simp [arrayElems]

/-- An array that decodes lies behind its offset and count words, and one whose offset word is 0 is empty. -/
theorem decodePN_ok_length {strict : Bool} {p : List Byte} {elems : List Word}
    (h : decodePN strict p = .ok elems) :
    (payloadWord p 0).toNat + 32 + 32 * elems.length ≤ p.length ∧
    ((payloadWord p 0).toNat = 0 → elems.length = 0) ∧ (strict = true → (payloadWord p 0).toNat = 32) := by
  rcases decodePN_cases strict p _ _ rfl rfl with ⟨-, hd⟩ | ⟨-, -, hd⟩ | ⟨-, -, hd⟩ | ⟨-, -, -, hd⟩ | ⟨hfit, hs, hd⟩ <;>
    rw [hd] at h <;> cases h
  rw [arrayElems_length]
  exact ⟨hfit, fun h0 => by rw [h0]; exact h0, fun ht => (hs ht).1⟩

/-- The element count of a decode is in the range of `ac.n` (R23). -/
theorem decodePN_ok_in_range {strict : Bool} {p : List Byte} {elems : List Word}
    (hp : 4 + p.length ≤ Config.maxCalldata) (h : decodePN strict p = .ok elems) :
    elems.length ≤ maxElements strict := by
  obtain ⟨hfit, h0, hs⟩ := decodePN_ok_length h
  cases strict with
  | true => have := hs rfl; rw [maxElements_strict, Config.maxN]; omega
  | false => rw [maxElements_lenient]; omega

end Sys2Proof.Machine
end

