-- ==== Sys2Proof/Laws/Ops.lean ====
section
/-! SUPPORT. Laws/Ops.lean: everything the three computation shapes do to the state, and that the decodes and runs
of an instruction always end its transaction. -/

namespace Sys2Proof.Machine

/-! ## The three computation shapes -/

theorem State.runSingle_cases (x : Word) (s : State) :
    (x.toNat < Config.P ∧ ∃ t, s.runSingle x =
      (s.setDp
        { s.dp with
          pe := { x := x, result := toExternal (hashSingle x.toNat), t := t, i := 8 }
          work := s.dp.work.plus 1 0 }).complete (toExternal (hashSingle x.toNat))) ∨
    (Config.P ≤ x.toNat ∧ s.runSingle x = s.raise (.fieldElementTooLarge x)) := by
  rcases validate_cases x with ⟨h, hv⟩ | ⟨h, hv⟩
  · obtain ⟨t, ht⟩ := Datapath.peRun_spec x s.dp
    refine .inl ⟨h, t, ?_⟩
    simp only [State.runSingle, hv, ht]
  · exact .inr ⟨h, by simp only [State.runSingle, hv]⟩

theorem State.runPair_cases (a b : Word) (s : State) :
    (a.toNat < Config.P ∧ b.toNat < Config.P ∧ ∃ x t, s.runPair a b =
      (s.setDp
        { s.dp with
          pe := { x := x, result := toExternal (hashPair a.toNat b.toNat), t := t, i := 8 }
          pm := { left := a
                  right := b
                  intermediate := toExternal (hashSingle (reduce (a.toNat + b.toNat + 1)))
                  phase := .pmIdle }
          work := s.dp.work.plus 2 2 }).complete (toExternal (hashPair a.toNat b.toNat))) ∨
    (Config.P ≤ a.toNat ∧ s.runPair a b = s.raise (.fieldElementTooLarge a)) ∨
    (a.toNat < Config.P ∧ Config.P ≤ b.toNat ∧ s.runPair a b = s.raise (.fieldElementTooLarge b)) := by
  rcases validate_cases a with ⟨ha, hva⟩ | ⟨ha, hva⟩
  · rcases validate_cases b with ⟨hb, hvb⟩ | ⟨hb, hvb⟩
    · obtain ⟨x, t, h⟩ := Datapath.pmRun_spec a b s.dp
      refine .inl ⟨ha, hb, x, t, ?_⟩
      simp only [State.runPair, hva, hvb, h]
    · exact .inr (.inr ⟨ha, hb, by simp only [State.runPair, hva, hvb]⟩)
  · exact .inr (.inl ⟨ha, by simp only [State.runPair, hva]⟩)

theorem State.runArray_cases (elems : List Word) (s : State) :
    (elems = [] ∧ s.runArray elems = (s.setDp (s.dp.acLoad [])).raise (.invalidInputLength 0)) ∨
    (∃ good bad rest, elems = good ++ bad :: rest ∧ (∀ e ∈ good, e.toNat < Config.P) ∧
      Config.P ≤ bad.toNat ∧
      s.runArray elems = (s.setDp (s.dp.acLoad elems)).raise (.fieldElementTooLarge bad)) ∨
    (∃ e es pe pm, elems = e :: es ∧ (∀ x ∈ elems, x.toNat < Config.P) ∧
      s.runArray elems =
        (s.setDp
          { pe := pe
            pm := pm
            ac := { elem := elems, k := es.length + 1, acc := toExternal (foldPairs e.toNat es) }
            work := s.dp.work.plus (2 * es.length) (2 * es.length) }).complete
          (toExternal (foldPairs e.toNat es)) ∧
      (es = [] → pe = s.dp.pe ∧ pm = s.dp.pm) ∧ (es ≠ [] → pm.phase = .pmIdle)) := by
  cases elems with
  | nil => exact .inl ⟨rfl, rfl⟩
  | cons e es =>
    have hn : ((s.setDp (s.dp.acLoad (e :: es))).dp.ac).n ≠ 0 := by simp [Ac.n]
    rcases validateAll_cases (e :: es) with ⟨hall, hv⟩ | ⟨good, bad, rest, hes, hgood, hbad, hv⟩
    · obtain ⟨pe, pm, hr, hnil, hcons⟩ :=
        Datapath.acRun_spec (s.dp.acLoad (e :: es)) e es rfl
      refine .inr (.inr ⟨e, es, pe, pm, rfl, hall, ?_, hnil, hcons⟩)
      rw [State.runArray, State.runLoaded, if_neg hn]
      simp only [State.setDp_dp, Datapath.acLoad_ac, hv, hr]
      rfl
    · refine .inr (.inl ⟨good, bad, rest, hes, hgood, hbad, ?_⟩)
      rw [State.runArray, State.runLoaded, if_neg hn]
      simp only [State.setDp_dp, Datapath.acLoad_ac, hv]

/-! ## The chainer's registers after each shape -/

theorem State.runSingle_ac (x : Word) (s : State) : (s.runSingle x).dp.ac = s.dp.ac := by
  rcases State.runSingle_cases x s with ⟨-, t, h⟩ | ⟨-, h⟩ <;> rw [h] <;> rfl

theorem State.runPair_ac (a b : Word) (s : State) : (s.runPair a b).dp.ac = s.dp.ac := by
  rcases State.runPair_cases a b s with ⟨-, -, x, t, h⟩ | ⟨-, h⟩ | ⟨-, -, h⟩ <;> rw [h] <;> rfl

/-- `ac.elem` holds the array; `ac.k` is its length after a fold and unchanged when there was none. -/
theorem State.runArray_ac (elems : List Word) (s : State) :
    (s.runArray elems).dp.ac.elem = elems ∧
    ((s.runArray elems).dp.ac.k = s.dp.ac.k ∨
      elems ≠ [] ∧ (s.runArray elems).dp.ac.k = elems.length) := by
  rcases State.runArray_cases elems s with ⟨he, h⟩ | ⟨_, _, _, -, -, -, h⟩ | ⟨e, es, _, _, he, -, h, -, -⟩ <;> rw [h]
  · exact ⟨he.symm, .inl rfl⟩
  · exact ⟨rfl, .inl rfl⟩
  · exact ⟨rfl, .inr ⟨by simp [he], by rw [he]; rfl⟩⟩

/-- The fold of a non-empty validated list is the pure `hash_array`. -/
theorem hashArray_of_valid (e : Word) (es : List Word) (h : ∀ x ∈ e :: es, x.toNat < Config.P) :
    hashArray (e :: es) = .ok (foldPairs e.toNat es) := by
  simp only [hashArray, validateAll_of_lt h]

/-! ## What follows a decode -/

theorem State.afterDecode_error {α : Type} {decoded : Except Raised α} {e : Raised}
    (h : decoded = .error e) (run : α → State → State) (s : State) :
    s.afterDecode decoded run = s.raise e := by
  subst h; rfl

theorem State.afterDecode_ok {α : Type} {decoded : Except Raised α} {args : α}
    (h : decoded = .ok args) (run : α → State → State) (s : State) :
    s.afterDecode decoded run = run args s := by
  subst h; rfl

end Sys2Proof.Machine
end

