-- ==== Sys2Proof/Laws/PerInstr.lean ====
section
/-! SUPPORT. Laws/PerInstr.lean: statements about every instruction as text, one lemma per constructor. -/

namespace Sys2Proof.Laws.TableKey

open Sys2Proof.Machine

/-- The encoded request has a 34-bit key (R56), the instruction's row of the opcode table is one of its rows, and it
selects that key. -/
def Statement (i : Instr) : Prop :=
  i.row ∈ opTable ∧ ∃ key, (encode i).key? = some key ∧ i.row.selects key = true

theorem call_key (sel : Nat) (payload : List Byte) (h : sel < 2 ^ 32) :
    (callRequest (beBytes 4 sel ++ payload)).key? = some sel := by
  have hr : memRead (beBytes 4 sel ++ payload) 0 4 = beBytes 4 sel := by
    simpa using memRead_append_left (beBytes 4 sel) payload
  have hb : be (beBytes 4 sel) = sel := by
    rw [be_beBytes]; exact Nat.mod_eq_of_lt h
  simp [Request.key?, callRequest, Request.len, Memory.len, Config.selectorBytes, hr, hb]

theorem poseidon1_row_selects :
    OpRow.selects ⟨"poseidon1", 0x005727d155, 0x3ffffffff⟩ Config.selPoseidon1 = true := by decide

theorem poseidon2_row_selects :
    OpRow.selects ⟨"poseidon2", 0x006e9c433b, 0x3ffffffff⟩ Config.selPoseidon2 = true := by decide

theorem poseidonN_row_selects :
    OpRow.selects ⟨"poseidonN", 0x00f653802b, 0x3ffffffff⟩ Config.selPoseidonN = true := by decide

theorem hash1_row_selects :
    OpRow.selects ⟨"HASH1", 0x100000000, 0x300000000⟩ 0x100000000 = true := by decide

theorem hash2_row_selects :
    OpRow.selects ⟨"HASH2", 0x200000000, 0x300000000⟩ 0x200000000 = true := by decide

theorem poseidon1 (payload : List Byte) : Statement (.poseidon1 payload) :=
  ⟨.head _, _, call_key Config.selPoseidon1 payload (by decide), poseidon1_row_selects⟩

theorem poseidon2 (payload : List Byte) : Statement (.poseidon2 payload) :=
  ⟨.tail _ (.head _), _, call_key Config.selPoseidon2 payload (by decide), poseidon2_row_selects⟩

theorem poseidonN (payload : List Byte) : Statement (.poseidonN payload) :=
  ⟨.tail _ (.tail _ (.head _)), _, call_key Config.selPoseidonN payload (by decide),
    poseidonN_row_selects⟩

theorem hash1 (a : Word) : Statement (.hash1 a) :=
  ⟨.tail _ (.tail _ (.tail _ (.head _))), _, by simp [Request.key?, encode, memRead, be],
    hash1_row_selects⟩

theorem hash2 (a b : Word) : Statement (.hash2 a b) :=
  ⟨.tail _ (.tail _ (.tail _ (.tail _ (.head _)))), _,
    by simp [Request.key?, encode, memRead, be], hash2_row_selects⟩

end Sys2Proof.Laws.TableKey
end

