-- ==== Sys2Proof/Laws/Step.lean ====
section
/-! SUPPORT. Laws/Step.lean: everything one step can do, and that every operation on the buffer keeps its form. -/

namespace Sys2Proof.Machine

/-- Everything the accept step can answer (R108, R139). -/
theorem State.accept_cases (p : Pins) (s : State) :
    (p.reqCmd = 3#2 ∧ s.accept p = .refused .reservedCommand) ∨
    (p.reqCmd ≠ 3#2 ∧ Config.maxCalldata < p.reqLen ∧ s.accept p = .refused .calldataTooLong) ∨
    (p.reqCmd ≠ 3#2 ∧ p.reqLen ≤ Config.maxCalldata ∧ p.reqBuf.length ≠ p.reqLen ∧
      s.accept p = .refused .bufferLengthMismatch) ∨
    (p.reqCmd ≠ 3#2 ∧ p.reqLen ≤ Config.maxCalldata ∧ p.reqBuf.length = p.reqLen ∧
      s.accept p = .next (s.latch p.request)) := by
  unfold State.accept
  split
  · exact .inl ⟨‹_›, rfl⟩
  split
  · exact .inr (.inl ⟨‹_›, by omega, rfl⟩)
  split
  · exact .inr (.inr (.inl ⟨‹_›, by omega, ‹_›, rfl⟩))
  · exact .inr (.inr (.inr ⟨‹_›, by omega, by tauto, rfl⟩))

/-- Everything one step that answers a next state can be. -/
theorem step_cases {s t : State} (h : step s = .next t) :
    (s.pins.rst = true ∧ t = s.advance.enterReset true) ∨
    (s.pins.rst = false ∧ s.rstHeld = true ∧ t = s.advance.enterReset false) ∨
    (s.pins.rst = false ∧ s.rstHeld = false ∧
      ((s.phase = .idle ∧ s.pins.reqValid = false ∧ t = s.advance) ∨
       (s.phase = .idle ∧ s.pins.reqValid = true ∧ s.pins.reqCmd ≠ 3#2 ∧
          s.pins.reqBuf.length ≤ Config.maxCalldata ∧ t = s.advance.latch s.pins.request) ∨
       (s.phase = .busy ∧ s.busyLeft ≠ 0 ∧ t = s.advance.stayBusy) ∨
       (s.phase = .busy ∧ s.busyLeft = 0 ∧ compute s.advance = .next t) ∨
       (s.phase = .done ∧ s.pins.rspReady = false ∧ t = s.advance) ∨
       (s.phase = .done ∧ s.pins.rspReady = true ∧ t = s.advance.deliver))) := by
  unfold step at h
  by_cases hr : s.pins.rst = true
  · rw [if_pos hr] at h
    cases h
    exact .inl ⟨hr, rfl⟩
  rw [if_neg hr] at h
  by_cases hh : s.rstHeld = true
  · rw [if_pos hh] at h
    cases h
    exact .inr (.inl ⟨by simpa using hr, hh, rfl⟩)
  rw [if_neg hh] at h
  refine .inr (.inr ⟨by simpa using hr, by simpa using hh, ?_⟩)
  unfold stepPhase at h
  rw [State.advance_phase, State.advance_busyLeft] at h
  cases hp : s.phase <;> simp only [hp] at h
  · split at h
    · rcases State.accept_cases s.pins s.advance with ⟨-, ha⟩ | ⟨-, -, ha⟩ | ⟨-, -, -, ha⟩ | ⟨h₁, h₂, h₃, ha⟩ <;>
        rw [ha] at h <;> cases h
      exact .inr (.inl ⟨rfl, ‹_›, h₁, by omega, rfl⟩)
    · rename_i hv
      cases h
      exact .inl ⟨rfl, by simpa using hv, rfl⟩
  · split at h
    · exact .inr (.inr (.inr (.inl ⟨rfl, ‹_›, h⟩)))
    · cases h
      exact .inr (.inr (.inl ⟨rfl, ‹_›, rfl⟩))
  · split at h
    · cases h
      exact .inr (.inr (.inr (.inr (.inr ⟨rfl, ‹_›, rfl⟩))))
    · rename_i hv
      cases h
      exact .inr (.inr (.inr (.inr (.inl ⟨rfl, by simpa using hv, rfl⟩))))

/-- Every operation answers a next state, whatever its operands and the state. -/
theorem exec_next (i : Instr) (s : State) : ∃ t, exec i s = .next t := by
  cases i <;> exact ⟨_, rfl⟩

/-- A run, one step at a time. -/
theorem runSteps_next {s t : State} (k : Nat) (h : step s = .next t) :
    runSteps (k + 1) s = runSteps k t := by
  rw [runSteps, h]

/-- Runs of next states join. -/
theorem runSteps_add (j k : Nat) {s t : State} (h : runSteps j s = .next t) :
    runSteps (j + k) s = runSteps k t := by
  induction j generalizing s with
  | zero => cases h; rw [Nat.zero_add]
  | succ j ih =>
    cases hs : step s with
    | next u =>
      rw [runSteps_next _ hs] at h
      rw [Nat.succ_add, runSteps_next _ hs]
      exact ih h
    | fault r => nomatch r
    | refused r => rw [runSteps, hs] at h; cases h

/-! ## The form of the buffer: only the accept step and reset write it -/

theorem Request.unspecified_wf (k : Nat) : Memory.wf (Request.unspecified k).buf := by
  simp [Memory.wf, Request.unspecified]

theorem State.latch_wf {p : Pins} {s t : State} (h : s.accept p = .next t) : Memory.wf t.req.buf := by
  rcases State.accept_cases p s with ⟨-, ha⟩ | ⟨-, -, ha⟩ | ⟨-, -, -, ha⟩ | ⟨-, h₂, h₃, ha⟩ <;>
    rw [ha] at h <;> cases h
  show p.reqBuf.length ≤ _
  omega

theorem State.enterReset_wf (held : Bool) (s : State) : Memory.wf (s.enterReset held).req.buf :=
  Request.unspecified_wf _

theorem State.reset_wf : Memory.wf State.reset.req.buf := Request.unspecified_wf 0

/-! ## The ranges of the chainer's registers: reset draws them in range -/

theorem Ac.unspecified_inRange (k : Nat) : (Ac.unspecified k).InRange := by
  have hn := Ac.unspecified_n_le k
  have hk := Ac.unspecified_k_le k
  have hm := maxN_le_maxElements Config.abiStrict
  refine ⟨hn.trans hm, Ac.unspecified_k_pos k, ?_⟩
  unfold Ac.lastIndex at hk
  unfold Ac.n at hn
  split at hk <;> omega


end Sys2Proof.Machine
end

