-- ==== Sys2Proof/Tests/Slice0.lean ====
section
/-! SUPPORT. Tests/Slice0.lean: the smoke of WellFormed, words written out from the spec's encodings, vectors of
95_test_vectors.md, and a witness for the hypotheses of each statement. -/

namespace Sys2Proof.Tests

open Sys2Proof Sys2Proof.Machine

/-! ## Helpers -/

/-- `P` as a word. -/
def wP : Word := BitVec.ofNat 256 Config.P

/-- `W(v)` of 95_test_vectors.md section 6. -/
def W (v : Word) : List Byte := beBytes 32 v.toNat

/-- A state about to compute, offer or accept, with plain register values and a schedule of inputs. -/
def start (phase : Phase) (r : Request) (host : List Pins) : State :=
  { phase := phase
    req := r
    rsp := ⟨0, be32 0, 0⟩
    dp := ⟨⟨0, 0, 0, 0⟩, ⟨0, 0, 0, .pmIdle⟩, ⟨[], 1, 0⟩, ⟨0, 0, 0, 0, 0⟩⟩
    rstHeld := false
    busyLeft := 0
    draws := 0
    host := host
    observed := [] }

/-- The status, the word's value on success, and the information of an answer. -/
def answer : Host.Outcome State Fault Refusal → Option (BitVec 3 × Option Nat × Word)
  | .next t => some (t.rsp.status, if t.rsp.status = 0 then some (be t.rsp.word.toList) else none, t.rsp.info)
  | .fault _ => none
  | .refused _ => none

/-- The input signals of a request offered. -/
def offer (r : Request) : Pins := ⟨false, true, r.cmd, r.len, r.buf, r.a, r.b, false⟩

/-- The input signals of a host ready for the response. -/
def ready : Pins := { Pins.quiet with rspReady := true }

/-! ## WellFormed refuses what it should -/

theorem test_wf_poseidon1_too_long : (Instr.poseidon1 (List.replicate 65 0)).fits 68 = false := by decide
theorem test_wf_poseidon2_too_long : (Instr.poseidon2 (List.replicate 65 0)).fits 68 = false := by decide
theorem test_wf_poseidonN_too_long : (Instr.poseidonN (List.replicate 65 0)).fits 68 = false := by decide
theorem test_wf_least_calldata : (Instr.poseidon2 (List.replicate 64 0)).fits 68 = true := by decide

/-! ## Decoding, from bytes written out (R52, R53, R57, R58) -/

/-- R52: `57 27 d1 55`, then the word 42. -/
theorem test_decode_poseidon1 :
    decode ⟨0#2, [0x57, 0x27, 0xd1, 0x55] ++ List.replicate 31 0 ++ [42], 0, 0⟩ =
      .instr (.poseidon1 (List.replicate 31 0 ++ [42])) := by decide

/-- R52: `6e 9c 43 3b`, then the words 1 and 2. -/
theorem test_decode_poseidon2 :
    decode ⟨0#2, [0x6e, 0x9c, 0x43, 0x3b] ++ List.replicate 31 0 ++ [1] ++ List.replicate 31 0 ++ [2], 0, 0⟩ =
      .instr (.poseidon2 (List.replicate 31 0 ++ [1] ++ List.replicate 31 0 ++ [2])) := by decide

/-- R53: `f6 53 80 2b`, the offset 32, the count 1, the element 7. -/
theorem test_decode_poseidonN :
    decode ⟨0#2, [0xf6, 0x53, 0x80, 0x2b] ++ List.replicate 31 0 ++ [32] ++ List.replicate 31 0 ++ [1] ++
      List.replicate 31 0 ++ [7], 0, 0⟩ =
      .instr (.poseidonN (List.replicate 31 0 ++ [32] ++ List.replicate 31 0 ++ [1] ++
        List.replicate 31 0 ++ [7])) := by decide

/-- R57, V-DIR-5: HASH1 with a short buffer latched. -/
theorem test_decode_hash1 : decode ⟨1#2, [0x57, 0x27, 0xd1], 42, 9⟩ = .instr (.hash1 42) := by decide

theorem test_decode_hash2 : decode ⟨2#2, [], 2, 1⟩ = .instr (.hash2 2 1) := by decide

/-- V-DS-10, V-DS-11, V-DS-12, V-REF-1. -/
theorem test_decode_rejects :
    decode ⟨0#2, [0x57, 0x27, 0xd1], 0, 0⟩ = .reject .bufferTooShort ∧
    decode ⟨0#2, [0, 0, 0, 0] ++ W 42, 0, 0⟩ = .reject .unknownSelector ∧
    decode ⟨0#2, [], 0, 0⟩ = .reject .bufferTooShort ∧
    decode ⟨3#2, [], 0, 0⟩ = .reject .reservedCommand := by decide

/-- R56: no key is selected by two rows: two CALL rows differ in value, and rows of different commands differ in
bits 33 and 32. -/
theorem test_table_rows_disjoint :
    opTable.Pairwise fun r q => r.value &&& q.mask ≠ q.value ∨ r.value &&& 0x300000000 ≠ q.value &&& 0x300000000 := by
  decide

/-! ## The functions (95_test_vectors.md sections 2 to 5) -/

/-- V-PE-2, V-PE-4, V-PE-7. -/
theorem test_hashSingle :
    hashSingle 42 = 0x1e08502c59a9b0577dee9a962944a3449e93590a8e8e24205e2b36f491f69c17 ∧
    hashSingle (Config.P - 1) = 0x27bed49c95142ea00804620cd2d4c5aa7348a2adee614a0b3ddb7d464b8fd334 ∧
    hashSingle (2 ^ 253) = 0x18da5648181ace169b638492464fbaf0f4e34ae664dd635e5da1ef419086eb9a := by decide

/-- V-PM-4a, V-PM-5, V-PM-6. -/
theorem test_hashPair :
    hashPair 0 1 = 0x14061cfd0b631c14196d37a131be6740912a0b8924792e0bbc35ceb780f437c1 ∧
    hashPair (Config.P - 1) (Config.P - 1) =
      0x033ea66f1ae431f96cf41cb44bca0f6b1e17ba3c81215894ffb2d3f0e6b289c3 ∧
    hashPair (Config.P - 1) 0 = 0x27e9839e050604327e511b2dd1485364112e5382c29ab6a0513091b3a7e7bcda := by decide +kernel

/-- V-AC-4, V-AC-6, V-AC-7. -/
theorem test_hashArray :
    hashArray [0, 0, 0, 0] = .ok 0x3051435bc86815997e366dcee02fe445ef486204557e696bc0e6afc240399099 ∧
    hashArray [1, wP, wP + 1] = .error (.fieldElementTooLarge wP) ∧
    hashArray [42, 43, 44] = .ok 0x0b4ec49da5435d9f846a2e8f517fda1684035175d156762c9e08f84e866d1040 := by decide +kernel

/-! ## The ABI decode (95_test_vectors.md section 6) -/

/-- V-DS-13, V-DS-15, V-DS-16, V-DS-17, V-DS-18, in both modes. -/
theorem test_abi_errors : ∀ strict : Bool,
    decodeP1 strict [] = .error (.abiDecodeError .short) ∧
    decodeP2 strict (W 1) = .error (.abiDecodeError .short) ∧
    decodePN strict (W 32 ++ W 3 ++ W 1 ++ W 2) = .error (.abiDecodeError .length) ∧
    decodePN strict (W (BitVec.ofNat 256 (2 ^ 255)) ++ W 1 ++ W 7) = .error (.abiDecodeError .offset) ∧
    decodePN strict (W 32 ++ W 2 ++ W wP) = .error (.abiDecodeError .length) := by decide +kernel

/-- V-DS-20 and V-DS-21: offset 64 with a junk word. -/
theorem test_abi_offset_64 :
    decodePN false (W 64 ++ W 0xdead ++ W 1 ++ W 7) = .ok [7] ∧
    decodePN true (W 64 ++ W 0xdead ++ W 1 ++ W 7) = .error (.abiDecodeError .nonCanonical) := by decide +kernel

/-- V-DS-22 and V-DS-23: a trailing byte. -/
theorem test_abi_trailing_byte :
    decodeP1 false (W 42 ++ [0xff]) = .ok 42 ∧
    decodeP1 true (W 42 ++ [0xff]) = .error (.abiDecodeError .nonCanonical) := by decide

/-! ## One step of each operation -/

/-- V-DS-1. -/
theorem test_step_poseidon1 :
    answer (step (start .busy (callRequest ([0x57, 0x27, 0xd1, 0x55] ++ W 42)) [])) =
      some (0, some 0x1e08502c59a9b0577dee9a962944a3449e93590a8e8e24205e2b36f491f69c17, 0) := by decide

/-- V-DS-5. -/
theorem test_step_poseidon1_P :
    answer (step (start .busy (callRequest ([0x57, 0x27, 0xd1, 0x55] ++ W wP)) [])) = some (3, none, wP) := by decide

/-- V-DS-8. -/
theorem test_step_poseidon2 :
    answer (step (start .busy (callRequest ([0x6e, 0x9c, 0x43, 0x3b] ++ W 2 ++ W 1)) [])) =
      some (0, some 0x0ad9c6e42e17f6890201572d5565867abe63c2e0e76b2e6946563458652904c1, 0) := by decide +kernel

/-- V-DS-6. -/
theorem test_step_poseidon2_a_first :
    answer (step (start .busy (callRequest ([0x6e, 0x9c, 0x43, 0x3b] ++ W wP ++ W (wP + 1))) [])) =
      some (3, none, wP) := by decide

/-- V-DS-3. -/
theorem test_step_poseidonN :
    answer (step (start .busy
      (callRequest ([0xf6, 0x53, 0x80, 0x2b] ++ W 32 ++ W 3 ++ W 1 ++ W 2 ++ W 3)) [])) =
      some (0, some 0x1e8a3e78f8d6d0eb01c2400a4cc4770387d630a898962bbaab5afa61408e4468, 0) := by decide +kernel

/-- V-DS-14. -/
theorem test_step_poseidonN_empty :
    answer (step (start .busy (callRequest ([0xf6, 0x53, 0x80, 0x2b] ++ W 32 ++ W 0)) [])) = some (4, none, 0) := by
  decide

/-- V-DIR-5. -/
theorem test_step_hash1 :
    answer (step (start .busy ⟨1#2, [0x57, 0x27, 0xd1], 42, 0⟩ [])) =
      some (0, some 0x1e08502c59a9b0577dee9a962944a3449e93590a8e8e24205e2b36f491f69c17, 0) := by decide

/-- V-DIR-4. -/
theorem test_step_hash2_a_first :
    answer (step (start .busy ⟨2#2, [], wP, wP + 1⟩ [])) = some (3, none, wP) := by decide

/-- V-DS-10. -/
theorem test_step_invalid_selector :
    answer (step (start .busy (callRequest [0x57, 0x27, 0xd1]) [])) = some (1, none, 0) := by decide

/-! ## Witnesses: the hypotheses of the statements can be met -/

theorem p_eq_wP : wP.toNat = Config.P := by decide

/-- A HASH1 request. -/
def hash1Of42 : Request := ⟨1#2, [], 42, 0⟩

theorem witness_computing : (start .busy hash1Of42 []).Computing := ⟨⟨rfl, rfl⟩, rfl, rfl⟩

/-- StepRunsTheDecodedInstruction, ComputeRefinesRespond (both clauses), EqualRequestsGetEqualResponses. -/
theorem witness_step_runs :
    (start .busy hash1Of42 []).Computing ∧ decode (start .busy hash1Of42 []).req = .instr (.hash1 42) :=
  ⟨witness_computing, by decide⟩

theorem witness_compute_reserved :
    (start .busy ⟨3#2, [], 0, 0⟩ []).Computing ∧ (start .busy ⟨3#2, [], 0, 0⟩ []).req.cmd = 3#2 :=
  ⟨⟨⟨rfl, rfl⟩, rfl, rfl⟩, rfl⟩

/-- Two states with one request and different registers. -/
theorem witness_equal_requests : ∃ t₁ t₂,
    step (start .busy hash1Of42 []) = .next t₁ ∧
    step { start .busy hash1Of42 [] with draws := 5, observed := [(hash1Of42, ⟨0, be32 0, 0⟩)] } = .next t₂ ∧
    (start .busy hash1Of42 []).Computing ∧
    { start .busy hash1Of42 [] with draws := 5, observed := [(hash1Of42, ⟨0, be32 0, 0⟩)] }.Computing :=
  ⟨_, _, rfl, rfl, witness_computing, ⟨⟨rfl, rfl⟩, rfl, rfl⟩⟩

/-- InvalidSelectorExactly: both ways into it, and the buffer of exactly 4 bytes that is outside both. -/
theorem witness_invalid_selector :
    (start .busy (callRequest []) []).Computing ∧ (callRequest []).cmd ≠ 3#2 ∧ (callRequest []).len < 4 ∧
    be (memRead (callRequest [0, 0, 0, 0]).buf 0 4) ∉ [0x5727d155, 0x6e9c433b, 0xf653802b] ∧
    ¬ (callRequest [0x57, 0x27, 0xd1, 0x55]).len < 4 ∧
    be (memRead (callRequest [0x57, 0x27, 0xd1, 0x55]).buf 0 4) = 0x5727d155 :=
  ⟨⟨⟨rfl, rfl⟩, rfl, rfl⟩, by decide, by decide, by decide, by decide, by decide⟩

/-- EncodeOfDecode: each command. -/
theorem witness_encode_of_decode :
    decode (callRequest ([0x57, 0x27, 0xd1, 0x55])) = .instr (.poseidon1 []) ∧
    decode hash1Of42 = .instr (.hash1 42) ∧ decode ⟨2#2, [], 1, 2⟩ = .instr (.hash2 1 2) := by decide

/-- DecodeFollowsTheTable: a key a row selects, a CALL key none selects, a reserved command, and no key. -/
theorem witness_table :
    hash1Of42.key? = some 0x100000000 ∧ OpRow.selects ⟨"HASH1", 0x100000000, 0x300000000⟩ 0x100000000 = true ∧
    (callRequest [0, 0, 0, 0]).key? = some 0 ∧ (opTable.all fun row => !row.selects 0) = true ∧
    (⟨3#2, [], 0, 0⟩ : Request).key? = some 0x300000000 ∧ (callRequest [1, 2, 3]).key? = none := by decide

/-- DirectCommandsIgnoreTheBuffer. -/
theorem witness_direct : hash1Of42.cmd = 1#2 ∧ (⟨2#2, [], 1, 2⟩ : Request).cmd = 2#2 := by decide

/-- ValidateChecksBelowP, RepresentationRoundTrips, PermutationRange and the completions of the direct commands:
both sides of `P` at the boundary. -/
theorem witness_range : (wP - 1).toNat < Config.P ∧ Config.P ≤ wP.toNat ∧ Config.P - 1 < Config.P := by decide

/-- ReduceIsTheResidue and ResultsAreFieldElements. -/
theorem witness_reduce :
    5 < Config.P ∧ Config.P + 5 = 1 * Config.P + 5 ∧ outcome true (.hash2 0 0) = .ok (hashPair 0 0) :=
  ⟨by decide, by decide, rfl⟩

/-- RoundConstantFlipsOneBit: both values of the bit; RoundConstantAddition: registers in range. -/
theorem witness_round_constant :
    Nat.testBit 42 2 = false ∧ Nat.testBit 42 1 = true ∧
    (start .idle hash1Of42 []).dp.pe.result.toNat < Config.P ∧ (start .idle hash1Of42 []).dp.pe.x.toNat < Config.P ∧
    (start .idle hash1Of42 []).dp.pe.i.toNat < 8 := by decide

/-- PairMixIsTwoPermutations, ChainingLaw and ArrayHashOutcomes. -/
theorem witness_arrays :
    (∀ y ∈ ([1, 2] : List Word), y.toNat < Config.P) ∧ (3 : Word).toNat < Config.P ∧
    (1 : Nat) < Config.P ∧ Config.P ≤ wP.toNat := by
  refine ⟨fun y hy => ?_, by decide, by decide, by decide⟩
  rcases List.mem_cons.mp hy with rfl | hy
  · decide
  · rw [List.mem_singleton.mp hy]; decide

/-- FixedShapeDecode: every clause of both decodes. -/
theorem witness_fixed_shape :
    ([] : List Byte).length < 32 ∧ 32 ≤ (W 42).length ∧ (W 42).length = 32 ∧ 32 < (W 42 ++ [0xff]).length ∧
    (W 42).length < 64 ∧ 64 ≤ (W 1 ++ W 2).length ∧ (W 1 ++ W 2).length = 64 ∧
    64 < (W 1 ++ W 2 ++ [0xff]).length := by decide

/-- ArrayDecodeLenient, one payload for each clause, each with the offset and the count it holds (the three checks
are the same in both modes: test_abi_errors). -/
theorem witness_lenient_short_and_offset :
    ([] : List Byte).length < 32 ∧ be (([] : List Byte).take 32) = 0 ∧
    32 ≤ (W 1).length ∧ be ((W 1).take 32) = 1 ∧ (W 1).length < 1 + 32 := by decide

theorem witness_lenient_length :
    be ((W 32 ++ W 1).take 32) = 32 ∧ be (((W 32 ++ W 1).drop 32).take 32) = 1 ∧ 32 + 32 ≤ (W 32 ++ W 1).length ∧
    (W 32 ++ W 1).length < 32 + 32 + 32 * 1 := by decide

theorem witness_lenient_ok :
    be ((W 32 ++ W 1 ++ W 7).take 32) = 32 ∧ be (((W 32 ++ W 1 ++ W 7).drop 32).take 32) = 1 ∧
    32 + 32 + 32 * 1 ≤ (W 32 ++ W 1 ++ W 7).length := by decide

/-- StrictAcceptsExactlyCanonical: accepted strictly, and accepted only leniently. -/
theorem witness_strict :
    decodeP1 true (W 42) = .ok 42 ∧ decodeP2 true (W 1 ++ W 2) = .ok (1, 2) ∧
    decodePN true (W 32 ++ W 1 ++ W 7) = .ok [7] ∧
    decodePN false (W 64 ++ W 0xdead ++ W 1 ++ W 7) = .ok [7] ∧
    W 64 ++ W 0xdead ++ W 1 ++ W 7 ≠ abiEncodeN [7] := by decide

/-- Poseidon1Completes, Poseidon2Completes, PoseidonNCompletes, EmptyArrayIsReported, in whichever mode the block
has. -/
theorem witness_payloads_decode :
    decodeP1 Config.abiStrict (W 42) = .ok 42 ∧ decodeP2 Config.abiStrict (W 1 ++ W 2) = .ok (1, 2) ∧
    decodePN Config.abiStrict (W 32 ++ W 2 ++ W 1 ++ W 2) = .ok [1, 2] ∧
    decodePN Config.abiStrict (W 32 ++ W 0) = .ok [] := by decide

/-- DecodeFailureComputesNothing: each of the three calls. -/
theorem witness_payloads_fail :
    decodeP1 Config.abiStrict [] = .error (.abiDecodeError .short) ∧
    decodeP2 Config.abiStrict (W 1) = .error (.abiDecodeError .short) ∧
    decodePN Config.abiStrict (W 32 ++ W 3) = .error (.abiDecodeError .length) := by decide

/-- OutOfRangeArgumentIsReported: the payloads of its clauses. -/
theorem witness_out_of_range :
    Config.P ≤ wP.toNat ∧ decodeP1 Config.abiStrict (W wP) = .ok wP ∧
    decodeP2 Config.abiStrict (W wP ++ W 1) = .ok (wP, 1) ∧ decodeP2 Config.abiStrict (W 1 ++ W wP) = .ok (1, wP) ∧
    decodePN Config.abiStrict (W 32 ++ W 3 ++ W 1 ++ W wP ++ W wP) = .ok ([1] ++ wP :: [wP]) := by decide +kernel

/-- BoundaryThroughTheInterface: each shape of instruction. -/
theorem witness_boundary : ((fun x => Instr.hash1 x) = fun x => Instr.hash1 x) ∧
    ((fun x => Instr.poseidon1 (abiEncode1 x)) = fun x => Instr.poseidon1 (abiEncode1 x)) := ⟨rfl, rfl⟩

/-- The frames and WorkPerOperation: next states with and without success, and a status 4. -/
theorem witness_exec :
    answer (exec (.hash1 42) (start .busy hash1Of42 [])) ≠ none ∧
    (answer (exec (.hash1 42) (start .busy hash1Of42 []))).map (·.1) = some 0 ∧
    (answer (exec (.hash2 wP 0) (start .busy hash1Of42 []))).map (·.1) = some 3 ∧
    (answer (exec (.poseidonN (W 32 ++ W 0)) (start .busy hash1Of42 []))).map (·.1) = some 4 ∧
    (answer (exec (.poseidonN []) (start .busy hash1Of42 []))).map (·.1) = some 2 := by decide

theorem offer_dutiful : (offer hash1Of42).Dutiful := fun _ => ⟨by decide, by simp [offer, Request.len, Memory.len, hash1Of42], rfl⟩

/-- AcceptLatchesThePort. -/
theorem witness_accept :
    (start .idle hash1Of42 [offer hash1Of42]).Running ∧ (start .idle hash1Of42 [offer hash1Of42]).phase = .idle ∧
    (start .idle hash1Of42 [offer hash1Of42]).pins.reqValid = true ∧
    (start .idle hash1Of42 [offer hash1Of42]).pins.Dutiful :=
  ⟨⟨rfl, rfl⟩, rfl, rfl, offer_dutiful⟩

/-- UndutifulRequestsAreRefused: each broken duty, on an idle block with the request on its port. -/
theorem witness_undutiful :
    (start .idle hash1Of42 [offer ⟨3#2, [], 0, 0⟩]).Running ∧ (offer ⟨3#2, [], 0, 0⟩).reqCmd = 3#2 ∧
    (offer hash1Of42).reqCmd ≠ 3#2 ∧
    Config.maxCalldata < { offer hash1Of42 with reqLen := Config.maxCalldata + 1 }.reqLen ∧
    { offer hash1Of42 with reqLen := 1 }.reqLen ≤ Config.maxCalldata ∧
    { offer hash1Of42 with reqLen := 1 }.reqBuf.length ≠ { offer hash1Of42 with reqLen := 1 }.reqLen :=
  ⟨⟨rfl, rfl⟩, rfl, by decide, Nat.lt_succ_self _,
    by show 1 ≤ Config.minMaxCalldata + Config.maxCalldataExtra; unfold Config.minMaxCalldata; omega, by decide⟩

/-- BusyBlockIgnoresTheRequestPort. -/
theorem witness_busy_port : ∃ t,
    step { start .done hash1Of42 [] with host := Pins.quiet :: [] } = .next t ∧
    (start .done hash1Of42 []).rstHeld = false ∧ (start .done hash1Of42 []).phase ≠ .idle ∧
    Pins.quiet.rst = false ∧
    offer hash1Of42 = { Pins.quiet with
      reqValid := true, reqCmd := 1#2, reqLen := 0, reqBuf := [], reqA := 42, reqB := 0 } :=
  ⟨_, rfl, rfl, by decide, rfl, rfl⟩

/-- DeliverHandsOverTheResponse: both clauses. -/
theorem witness_deliver :
    (start .done hash1Of42 [ready]).Running ∧ (start .done hash1Of42 [ready]).pins.rspReady = true ∧
    (start .done hash1Of42 []).Running ∧ (start .done hash1Of42 []).pins.rspReady = false :=
  ⟨⟨rfl, rfl⟩, rfl, ⟨rfl, rfl⟩, rfl⟩

/-- IdleBlockKeepsItsState, on the state after reset. -/
theorem witness_idle :
    State.reset.Running ∧ State.reset.phase = .idle ∧ State.reset.pins.reqValid = false := ⟨⟨rfl, rfl⟩, rfl, rfl⟩

/-- ResetDropsTheTransaction: `rst = 1` during a transaction, and the step that releases it. -/
theorem witness_reset :
    (start .busy hash1Of42 [{ Pins.quiet with rst := true }]).pins.rst = true ∧
    ({ start .idle hash1Of42 [] with rstHeld := true } : State).rstHeld = true := ⟨rfl, rfl⟩

theorem start_chainer_inRange (phase : Phase) (r : Request) (host : List Pins) :
    (start phase r host).dp.ac.InRange := ⟨Nat.zero_le _, Nat.le_refl 1, Nat.le_max_left 1 _⟩

/-- A state that meets the invariant with a transaction in flight. -/
theorem witness_inv : (start .busy hash1Of42 []).Inv where
  bufferFits := Nat.zero_le _
  legal := fun _ => ⟨by decide, Nat.zero_le _⟩
  mixerIdle := rfl
  chainerInRange := start_chainer_inRange _ _ _
  offered := fun h => nomatch h
  delivered := fun _ h => nomatch h

/-- StepKeepsInvariant. -/
theorem witness_step_inv : (start .busy hash1Of42 []).Inv ∧ ∃ t, step (start .busy hash1Of42 []) = .next t :=
  ⟨witness_inv, _, rfl⟩

/-- DutifulHostNeverStopsTheBlock. -/
theorem witness_safe : (start .busy hash1Of42 [ready, offer hash1Of42]).Safe where
  dutiful := by
    intro p hp
    simp only [start, List.mem_cons, List.not_mem_nil, or_false] at hp
    rcases hp with rfl | rfl
    · exact fun h => nomatch h
    · exact offer_dutiful
  inv :=
    ⟨Nat.zero_le _, fun _ => ⟨by decide, Nat.zero_le _⟩, rfl, start_chainer_inRange _ _ _,
      (fun h => nomatch h), (fun _ h => nomatch h)⟩

/-- TransactionsReachDone. -/
theorem witness_reach_done :
    (start .busy hash1Of42 []).phase = .busy ∧ (start .busy hash1Of42 []).req.cmd ≠ 3#2 ∧
    (start .busy hash1Of42 []).rstHeld = false ∧
    ∀ p ∈ (start .busy hash1Of42 []).host.take ((start .busy hash1Of42 []).busyLeft + 1), p.rst = false :=
  ⟨rfl, by decide, rfl, fun _ h => nomatch h⟩

/-- OneTransactionEndToEnd, whatever the latency is. -/
theorem witness_end_to_end : ∃ (s : State) (middle : List Pins),
    s.phase = .idle ∧ s.rstHeld = false ∧ s.host = offer hash1Of42 :: (middle ++ ready :: []) ∧
    (offer hash1Of42).rst = false ∧ (offer hash1Of42).reqValid = true ∧ (offer hash1Of42).Dutiful ∧
    middle.length = Config.latency s.draws + 1 ∧ (∀ q ∈ middle, q.rst = false) ∧
    ready.rst = false ∧ ready.rspReady = true :=
  ⟨start .idle hash1Of42 (offer hash1Of42 :: (List.replicate (Config.latency 0 + 1) Pins.quiet ++ ready :: [])),
    List.replicate (Config.latency 0 + 1) Pins.quiet, rfl, rfl, rfl, rfl, rfl, offer_dutiful, by simp [start],
    fun q hq => by rw [List.eq_of_mem_replicate hq]; rfl, rfl, rfl⟩

/-- CopiesDoNotInterfere: two copies, both of which can step. -/
theorem witness_copies : ∃ q r,
    (Platform.mk [start .idle hash1Of42 [], start .done hash1Of42 [ready]]).stepAt 0 = some q ∧
    (Platform.mk [start .idle hash1Of42 [], start .done hash1Of42 [ready]]).stepAt 1 = some r ∧ (0 : Nat) ≠ 1 :=
  ⟨_, _, rfl, rfl, by decide⟩

/-- RequestTextsKeepArguments: an array a count word can hold, and a CALL text (36 bytes of poseidon1(42), V-DS-1) that
decodes to the instruction whose encoding it is. -/
theorem witness_texts :
    ([1, 2, 3] : List Word).length < 2 ^ 256 ∧
    decode (RequestText.call ([0x57, 0x27, 0xd1, 0x55] ++ W 42)).assemble = .instr (.poseidon1 (W 42)) ∧
    encode (.poseidon1 (W 42)) = (RequestText.call ([0x57, 0x27, 0xd1, 0x55] ++ W 42)).assemble := by decide

/-- ArrayRegistersStayInRange: a reset step, a payload that fits every block and decodes, with offset word 32 and, in
lenient mode, 0; a datapath with elements to fold. -/
theorem witness_array_ranges :
    (∃ u s : State, (u.pins.rst = true ∨ u.rstHeld = true) ∧ step u = .next s) ∧
    (∀ strict, decodePN strict (W 32 ++ W 0) = .ok []) ∧ 4 + (W 32 ++ W 0).length ≤ Config.maxCalldata ∧
    32 ≤ be ((W 32 ++ W 0).take 32) ∧ decodePN false (W 0) = .ok [] ∧ be ((W 0).take 32) = 0 ∧
    1 < ((start .idle hash1Of42 []).dp.acLoad [1, 2]).ac.n :=
  ⟨⟨start .busy hash1Of42 [{ Pins.quiet with rst := true }], _, .inl rfl, rfl⟩, by decide,
    by show 68 ≤ Config.minMaxCalldata + Config.maxCalldataExtra; unfold Config.minMaxCalldata; omega,
    by decide, by decide, by decide, by decide⟩

/-! ## The host's two questions on one row -/

/-- The word of HASH1 runs as the first instruction after reset, whatever the free values are (R71's example). -/
theorem test_fetch_hash1_after_reset :
    answer (step (State.reset.withFetchWord 40 0x0100000000)) =
      some (0, some 0x1dad1391a4cc9e9131d3b15a3cdddabd9fe8da8716bfdf9ea1104c490112ef63, 0) := by decide

end Sys2Proof.Tests
end

/-! PROOFS. A transaction's response is a function of the latched request (R33, R107): the response every operation
leaves in `RSP` encodes the pure outcome of its instruction, so a computing step's response answers the request, and
two responses that encode one outcome agree in all that R107 fixes. -/

namespace Sys2Proof.Machine

/-! ## Which responses encode an outcome -/

/-- No error has the status code of success (R115). -/
theorem Raised.code_ne_statusOk (e : Raised) : e.code ≠ statusOk := by
  cases e <;> simp [Raised.code, statusOk]

theorem State.complete_encodes (v : Nat) (s : State) :
    (s.complete (toExternal v)).rsp.Encodes (.ok v) := ⟨rfl, rfl, rfl⟩

theorem State.raise_encodes (e : Raised) (s : State) : (s.raise e).rsp.Encodes (.error e) := ⟨rfl, rfl⟩

/-- Two responses that encode one outcome have the same status and information and, when they are successes, the same
word (a failing response's word is free, D10). -/
theorem Response.Encodes.agree {p q : Response} {o : Except Raised Nat} (hp : p.Encodes o) (hq : q.Encodes o) :
    p.status = q.status ∧ p.info = q.info ∧ (p.status = statusOk → p.word = q.word) := by
  cases o with
  | ok v =>
    obtain ⟨hps, hpw, hpi⟩ := hp
    obtain ⟨hqs, hqw, hqi⟩ := hq
    exact ⟨hps.trans hqs.symm, hpi.trans hqi.symm, fun _ => hpw.trans hqw.symm⟩
  | error e =>
    obtain ⟨hps, hpi⟩ := hp
    obtain ⟨hqs, hqi⟩ := hq
    exact ⟨hps.trans hqs.symm, hpi.trans hqi.symm, fun h => absurd (hps.symm.trans h) e.code_ne_statusOk⟩

/-- Two responses to one request agree in the same way. -/
theorem Response.Answers.agree {strict : Bool} {p q : Response} {r : Request}
    (hp : p.Answers strict r) (hq : q.Answers strict r) :
    p.status = q.status ∧ p.info = q.info ∧ (p.status = statusOk → p.word = q.word) := by
  obtain ⟨o, ho, hpo⟩ := hp
  obtain ⟨o', ho', hqo⟩ := hq
  obtain rfl : o = o' := Option.some.inj (ho.symm.trans ho')
  exact hpo.agree hqo

/-! ## The pure operations by the ranges of their operands -/

theorem single_of_lt {x : Word} (h : x.toNat < Config.P) : single x = .ok (hashSingle x.toNat) := by
  simp only [single, validate_of_lt h]

theorem single_of_ge {x : Word} (h : Config.P ≤ x.toNat) : single x = .error (.fieldElementTooLarge x) := by
  simp only [single, validate_of_ge h]

theorem pair_of_lt {a b : Word} (ha : a.toNat < Config.P) (hb : b.toNat < Config.P) :
    pair a b = .ok (hashPair a.toNat b.toNat) := by
  simp only [pair, validate_of_lt ha, validate_of_lt hb]

theorem pair_of_left_ge {a b : Word} (ha : Config.P ≤ a.toNat) :
    pair a b = .error (.fieldElementTooLarge a) := by
  simp only [pair, validate_of_ge ha]

theorem pair_of_right_ge {a b : Word} (ha : a.toNat < Config.P) (hb : Config.P ≤ b.toNat) :
    pair a b = .error (.fieldElementTooLarge b) := by
  simp only [pair, validate_of_lt ha, validate_of_ge hb]

/-- The validation loop raises the first element that is out of range (R91). -/
theorem validateAll_of_first_ge {good rest : List Word} {bad : Word} (hgood : ∀ e ∈ good, e.toNat < Config.P)
    (hbad : Config.P ≤ bad.toNat) :
    validateAll (good ++ bad :: rest) = .error (.fieldElementTooLarge bad) := by
  induction good with
  | nil => simp only [List.nil_append, validateAll, validate_of_ge hbad]
  | cons e es ih =>
    obtain ⟨he, hes⟩ := List.forall_mem_cons.mp hgood
    simp only [List.cons_append, validateAll, validate_of_lt he, ih hes]

/-- An array that does not validate is answered with the error of its validation (R89). -/
theorem hashArray_of_invalid {elems : List Word} {e : Raised} (h : validateAll elems = .error e) :
    hashArray elems = .error e := by
  cases elems with
  | nil => cases h
  | cons x xs => simp only [hashArray, h]

/-! ## Every operation's response encodes its outcome -/

theorem State.runSingle_encodes (x : Word) (s : State) : (s.runSingle x).rsp.Encodes (single x) := by
  rcases State.runSingle_cases x s with ⟨hx, t, h⟩ | ⟨hx, h⟩
  · rw [h, single_of_lt hx]
    exact State.complete_encodes _ _
  · rw [h, single_of_ge hx]
    exact State.raise_encodes _ _

theorem State.runPair_encodes (a b : Word) (s : State) : (s.runPair a b).rsp.Encodes (pair a b) := by
  rcases State.runPair_cases a b s with ⟨ha, hb, x, t, h⟩ | ⟨ha, h⟩ | ⟨ha, hb, h⟩
  · rw [h, pair_of_lt ha hb]
    exact State.complete_encodes _ _
  · rw [h, pair_of_left_ge ha]
    exact State.raise_encodes _ _
  · rw [h, pair_of_right_ge ha hb]
    exact State.raise_encodes _ _

theorem State.runArray_encodes (elems : List Word) (s : State) :
    (s.runArray elems).rsp.Encodes (hashArray elems) := by
  rcases State.runArray_cases elems s with
    ⟨rfl, h⟩ | ⟨good, bad, rest, rfl, hgood, hbad, h⟩ | ⟨e, es, pe, pm, rfl, hvalid, h, -, -⟩
  · rw [h]
    exact State.raise_encodes _ _
  · rw [h, hashArray_of_invalid (validateAll_of_first_ge hgood hbad)]
    exact State.raise_encodes _ _
  · rw [h, hashArray_of_valid e es hvalid]
    exact State.complete_encodes _ _

/-- What a call answers: the error of its ABI decode, or what it computes on the decoded arguments (R96, R101). -/
theorem State.afterDecode_encodes {α : Type} {run : α → State → State} {result : α → Except Raised Nat}
    (hrun : ∀ args s, (run args s).rsp.Encodes (result args)) (decoded : Except Raised α) (s : State) :
    (s.afterDecode decoded run).rsp.Encodes (decoded >>= result) := by
  cases decoded with
  | error e => exact State.raise_encodes e s
  | ok args => exact hrun args s

theorem outcome_poseidon1 (strict : Bool) (payload : List Byte) :
    outcome strict (.poseidon1 payload) = decodeP1 strict payload >>= single := by
  cases h : decodeP1 strict payload <;> simp only [outcome, h] <;> rfl

theorem outcome_poseidon2 (strict : Bool) (payload : List Byte) :
    outcome strict (.poseidon2 payload) = decodeP2 strict payload >>= fun ab => pair ab.1 ab.2 := by
  cases h : decodeP2 strict payload <;> simp only [outcome, h] <;> rfl

theorem outcome_poseidonN (strict : Bool) (payload : List Byte) :
    outcome strict (.poseidonN payload) = decodePN strict payload >>= hashArray := by
  cases h : decodePN strict payload <;> simp only [outcome, h] <;> rfl

/-- Every operation, from every state, leaves a response that encodes the pure outcome of its instruction (R107). -/
theorem exec_encodes {i : Instr} {s t : State} (h : exec i s = .next t) :
    t.rsp.Encodes (outcome Config.abiStrict i) := by
  cases i with
  | poseidon1 payload =>
    cases h
    rw [outcome_poseidon1]
    exact State.afterDecode_encodes State.runSingle_encodes _ s
  | poseidon2 payload =>
    cases h
    rw [outcome_poseidon2]
    exact State.afterDecode_encodes (fun ab u => State.runPair_encodes ab.1 ab.2 u) _ s
  | poseidonN payload =>
    cases h
    rw [outcome_poseidonN]
    exact State.afterDecode_encodes State.runArray_encodes _ s
  | hash1 a =>
    cases h
    exact State.runSingle_encodes a s
  | hash2 a b =>
    cases h
    exact State.runPair_encodes a b s

/-! ## The computing step answers the latched request -/

/-- The computing of a transaction ends with an answer to the latched request (R107). -/
theorem compute_answers {s t : State} (h : compute s = .next t) : t.rsp.Answers Config.abiStrict s.req := by
  cases hd : decode s.req with
  | instr i =>
    simp only [compute, hd] at h
    exact ⟨outcome Config.abiStrict i, by simp only [respond, hd], exec_encodes h⟩
  | reject why =>
    cases why with
    | bufferTooShort | unknownSelector =>
      simp only [compute, hd] at h
      cases h
      exact ⟨.error .invalidSelector, by simp only [respond, hd], State.raise_encodes _ s⟩
    | reservedCommand =>
      simp only [compute, hd] at h
      cases h

/-- A computing step is the computing of the latched request, after the host's schedule has moved on (R109). -/
theorem State.Computing.step_eq {s : State} (hs : s.Computing) : step s = compute s.advance := by
  obtain ⟨⟨hrst, hheld⟩, hphase, hleft⟩ := hs
  simp [step, stepPhase, hrst, hheld, hphase, hleft]

/-- A computing step's response answers the latched request, from every state. -/
theorem State.Computing.step_answers {s t : State} (hs : s.Computing) (h : step s = .next t) :
    t.rsp.Answers Config.abiStrict s.req :=
  compute_answers (s := s.advance) (hs.step_eq ▸ h)

/-- Settles O45: both responses answer the one latched request, whose answer is a function of the request alone. -/
theorem equalRequestsGetEqualResponses : Obligations.EqualRequestsGetEqualResponses := by
  unfold Obligations.EqualRequestsGetEqualResponses
  intro s₁ s₂ t₁ t₂ h₁ h₂ hreq hstep₁ hstep₂
  have answer₁ : t₁.rsp.Answers Config.abiStrict s₂.req := hreq ▸ h₁.step_answers hstep₁
  have answer₂ : t₂.rsp.Answers Config.abiStrict s₂.req := h₂.step_answers hstep₂
  exact answer₁.agree answer₂

end Sys2Proof.Machine

/-! PROOFS. The words of a payload (R40, R60): a word holds the whole big-endian value of its 32 bytes, because at most
32 bytes are read, and a read of the payload is a read of the buffer behind the 4 selector bytes. -/

namespace Sys2Proof.Machine

/-- A read of `n` bytes is at most `n` bytes, wherever it points. -/
theorem memRead_length_le (m : Memory) (addr n : Nat) : (memRead m addr n).length ≤ n :=
  List.length_take_le n (m.drop addr)

/-- A read behind the first `k` bytes of a buffer is a read of the buffer. -/
theorem memRead_drop (m : Memory) (k addr n : Nat) : memRead (m.drop k) addr n = memRead m (k + addr) n := by
  rw [memRead, memRead, List.drop_drop]

theorem be_memRead_lt (m : Memory) (addr n : Nat) : be (memRead m addr n) < 256 ^ n :=
  calc be (memRead m addr n)
    _ < 256 ^ (memRead m addr n).length := be_lt _
    _ ≤ 256 ^ n := Nat.pow_le_pow_right (by decide) (memRead_length_le m addr n)

/-- A payload word keeps every bit of the bytes it is read from: the bytes of a 32-byte read fit in 256 bits. -/
theorem payloadWord_toNat (payload : List Byte) (k : Nat) :
    (payloadWord payload k).toNat = be (memRead payload k 32) := by
  have fits : be (memRead payload k 32) < 2 ^ 256 := be_memRead_lt payload k 32
  rw [payloadWord, BitVec.toNat_ofNat, Nat.mod_eq_of_lt fits]

/-- Settles O7: the payload word is read in full, and its bytes are those of the buffer 4 further on. -/
theorem argumentWordsAreBigEndian : Obligations.ArgumentWordsAreBigEndian := by
  unfold Obligations.ArgumentWordsAreBigEndian
  intro buf k
  rw [payloadWord_toNat, memRead_drop]

end Sys2Proof.Machine

/-! PROOFS. The direct commands (R56, R57): the instruction is a function of the command and the operand registers, so
the call buffer cannot reach it. -/

namespace Sys2Proof.Machine

/-- Command 1 is HASH1 of `a`, whatever the buffer and `b` are (R57). -/
theorem decode_of_cmd_hash1 {r : Request} (hcmd : r.cmd = 1#2) : decode r = .instr (.hash1 r.a) := by
  simp [decode, hcmd]

/-- Command 2 is HASH2 of `a` and `b`, whatever the buffer is (R57). -/
theorem decode_of_cmd_hash2 {r : Request} (hcmd : r.cmd = 2#2) : decode r = .instr (.hash2 r.a r.b) := by
  simp [decode, hcmd]

/-- Two buffers give one instruction under a direct command: both decodes are the instruction of the same operands. -/
theorem decode_withBuf_of_direct {r : Request} (buf : Memory) (hdirect : r.cmd = 1#2 ∨ r.cmd = 2#2) :
    decode { r with buf := buf } = decode r := by
  obtain hcmd | hcmd := hdirect
  · exact (decode_of_cmd_hash1 (r := { r with buf := buf }) hcmd).trans (decode_of_cmd_hash1 hcmd).symm
  · exact (decode_of_cmd_hash2 (r := { r with buf := buf }) hcmd).trans (decode_of_cmd_hash2 hcmd).symm

/-- Settles O6: the command alone selects the instruction, and its operands are registers beside the buffer. -/
theorem directCommandsIgnoreTheBuffer : Obligations.DirectCommandsIgnoreTheBuffer := by
  unfold Obligations.DirectCommandsIgnoreTheBuffer
  intro r
  exact ⟨decode_of_cmd_hash1, decode_of_cmd_hash2, decode_withBuf_of_direct⟩

end Sys2Proof.Machine

/-! PROOFS. The field validator and the field arithmetic (R65 to R70): the validator accepts exactly the words below
`P`, `reduce` is the remainder of the division by `P`, the conversions invert each other, and every value an operation
returns is below `P`. -/

namespace Sys2Proof.Machine

/-! ## The residue (R68, R69) -/

theorem reduce_of_lt {r : Nat} (h : r < Config.P) : reduce r = r := Nat.mod_eq_of_lt h

/-- `reduce v` is what is left of `v` once a multiple of `P` is taken away (R68). -/
theorem eq_mul_add_reduce (v : Nat) : v = v / Config.P * Config.P + reduce v :=
  (Nat.div_add_mod' v Config.P).symm

/-- A multiple of `P` does not reach the residue. -/
theorem reduce_mul_add (q r : Nat) : reduce (q * Config.P + r) = reduce r := Nat.mul_add_mod' q Config.P r

/-- A number below `P` that differs from `v` by a multiple of `P` is `reduce v` (R68). -/
theorem eq_reduce_of_eq_mul_add {v q r : Nat} (hr : r < Config.P) (hv : v = q * Config.P + r) : r = reduce v := by
  rw [hv, reduce_mul_add, reduce_of_lt hr]

/-- The sum of two words keeps its carry in one more bit (R69). -/
theorem toNat_add_toNat_lt (a b : Word) : a.toNat + b.toNat < 2 ^ 257 := by
  have ha := a.isLt
  have hb := b.isLt
  omega

/-- The product of two words fits the `WIDE` bits of R10 (R69). -/
theorem toNat_mul_toNat_lt_wide (a b : Word) : a.toNat * b.toNat < 2 ^ Config.wide := by
  have hwide : Config.wide = 256 + 256 := rfl
  rw [hwide, Nat.pow_add]
  exact Nat.mul_lt_mul'' a.isLt b.isLt

/-- Multiplying by 0 gives 0 (R69). -/
theorem fmul_zero (a : Nat) : fmul a 0 = 0 := reduce_of_lt P_pos

/-- Settles O10: the quotient by `P` shows that `reduce v` is a residue, and a residue below `P` is its own
reduction. -/
theorem reduceIsTheResidue : Obligations.ReduceIsTheResidue := by
  unfold Obligations.ReduceIsTheResidue
  refine ⟨fun v => ⟨reduce_lt v, ⟨v / Config.P, eq_mul_add_reduce v⟩, fun r q => eq_reduce_of_eq_mul_add⟩, ?_⟩
  decide

/-! ## Results are field elements (R70) -/

/-- A fold of pair hashes stays below `P` when it starts below `P`; on no further element it is its start. -/
theorem foldPairs_lt {acc : Nat} (hacc : acc < Config.P) (elems : List Word) : foldPairs acc elems < Config.P := by
  induction elems generalizing acc with
  | nil => exact hacc
  | cons e es ih => exact ih (hashPair_lt acc e.toNat)

theorem single_ok_lt {x : Word} {v : Nat} (h : single x = .ok v) : v < Config.P := by
  rcases validate_cases x with ⟨hx, -⟩ | ⟨hx, -⟩
  · rw [single_of_lt hx] at h
    cases h
    exact hashSingle_lt _
  · rw [single_of_ge hx] at h
    cases h

theorem pair_ok_lt {a b : Word} {v : Nat} (h : pair a b = .ok v) : v < Config.P := by
  rcases validate_cases a with ⟨ha, -⟩ | ⟨ha, -⟩
  · rcases validate_cases b with ⟨hb, -⟩ | ⟨hb, -⟩
    · rw [pair_of_lt ha hb] at h
      cases h
      exact hashPair_lt _ _
    · rw [pair_of_right_ge ha hb] at h
      cases h
  · rw [pair_of_left_ge ha] at h
    cases h

/-- A one-element array is answered with the element itself, which is below `P` because it was validated (R93). -/
theorem hashArray_ok_lt {elems : List Word} {v : Nat} (h : hashArray elems = .ok v) : v < Config.P := by
  cases elems with
  | nil => cases h
  | cons e es =>
    rcases validateAll_cases (e :: es) with ⟨hall, -⟩ | ⟨_, _, _, -, -, -, hbad⟩
    · rw [hashArray_of_valid e es hall] at h
      cases h
      exact foldPairs_lt (hall e List.mem_cons_self) es
    · rw [hashArray_of_invalid hbad] at h
      cases h

/-- A call returns what its operation returns on the decoded arguments, so a bound on the one bounds the other. -/
theorem bind_ok_lt {α : Type} {decoded : Except Raised α} {run : α → Except Raised Nat} {bound v : Nat}
    (hrun : ∀ {args w}, run args = .ok w → w < bound) (h : (decoded >>= run) = .ok v) : v < bound := by
  cases decoded with
  | error e => cases h
  | ok args => exact hrun h

/-- Whatever an operation returns on success is below `P`, in either mode of the ABI decode (R70). -/
theorem outcome_ok_lt {strict : Bool} {i : Instr} {v : Nat} (h : outcome strict i = .ok v) : v < Config.P := by
  cases i with
  | poseidon1 payload =>
    rw [outcome_poseidon1] at h
    exact bind_ok_lt single_ok_lt h
  | poseidon2 payload =>
    rw [outcome_poseidon2] at h
    exact bind_ok_lt pair_ok_lt h
  | poseidonN payload =>
    rw [outcome_poseidonN] at h
    exact bind_ok_lt hashArray_ok_lt h
  | hash1 a => exact single_ok_lt h
  | hash2 a b => exact pair_ok_lt h

/-- Settles O13: each reduction ends in `reduce`, and each operation ends in a pair or single hash or in a validated
element. -/
theorem resultsAreFieldElements : Obligations.ResultsAreFieldElements := by
  unfold Obligations.ResultsAreFieldElements
  exact ⟨reduce_lt, fadd_lt, fmul_lt, fun _ _ _ => outcome_ok_lt⟩

/-! ## The validator, the operations and the conversions at words -/

/-- Settles O9: the two sides of `P`, and the four corner words by the side each is on. -/
theorem validateChecksBelowP : Obligations.ValidateChecksBelowP := by
  unfold Obligations.ValidateChecksBelowP
  refine ⟨fun x => ⟨validate_of_lt, fun hx => ⟨validate_of_ge hx, rfl⟩⟩, ?_, ?_, ?_, ?_⟩
  · exact validate_of_lt P_pos
  · exact validate_of_lt (by decide)
  · exact validate_of_ge (by decide)
  · exact validate_of_ge (by decide)

/-- Settles O11: `fadd` and `fmul` reduce the exact sum and product, whose widths are bounded apart. -/
theorem fieldOperationsAreExact : Obligations.FieldOperationsAreExact := by
  unfold Obligations.FieldOperationsAreExact
  refine ⟨fun a b => ⟨rfl, toNat_add_toNat_lt a b, rfl, toNat_mul_toNat_lt_wide a b⟩, fmul_zero, ?_⟩
  decide

/-- Settles O12: a word is its own residue, and a residue below `P` fits a word. -/
theorem representationRoundTrips : Obligations.RepresentationRoundTrips := by
  unfold Obligations.RepresentationRoundTrips
  exact ⟨toExternal_toInternal, fun _ => toInternal_toExternal_reduced⟩

end Sys2Proof.Machine

/-! PROOFS. The permutation round engine (R71 to R82): a round constant is its input with one bit inverted, the S-box is
the fifth power, the permutation is the fold of its eight rounds, and its boundary is the validation in front of it. -/

namespace Sys2Proof.Machine

/-! ## The round constant (R72, R81) -/

/-- A clear bit that is inverted adds its weight: above it the quotient is even and grows by one, below it the
remainder stays. -/
theorem two_pow_xor_of_testBit_false {x k : Nat} (h : x.testBit k = false) : 2 ^ k ^^^ x = x + 2 ^ k := by
  have heven : Even (x / 2 ^ k) := by
    rw [Nat.even_iff, ← Nat.toNat_testBit, h, Bool.toNat_false]
  have hdiv : (2 ^ k ^^^ x) / 2 ^ k = x / 2 ^ k + 1 := by
    rw [Nat.xor_div_two_pow, Nat.div_self (Nat.two_pow_pos k), Nat.xor_comm, Nat.xor_one_of_even heven]
  have hmod : (2 ^ k ^^^ x) % 2 ^ k = x % 2 ^ k := by
    rw [Nat.xor_mod_two_pow, Nat.mod_self, Nat.zero_xor]
  calc 2 ^ k ^^^ x
    _ = 2 ^ k * (x / 2 ^ k + 1) + x % 2 ^ k := by rw [← hdiv, ← hmod, Nat.div_add_mod]
    _ = (2 ^ k * (x / 2 ^ k) + x % 2 ^ k) + 2 ^ k := by ring
    _ = x + 2 ^ k := by rw [Nat.div_add_mod]

theorem rc_of_testBit_false {x i : Nat} (h : x.testBit (i + 1) = false) : rc x i = x + 2 ^ (i + 1) :=
  two_pow_xor_of_testBit_false h

/-- Inverting the bit again gives the input back. -/
theorem rc_rc (x i : Nat) : rc (rc x i) i = x := by
  rw [rc, rc, ← Nat.xor_assoc, Nat.xor_self, Nat.zero_xor]

theorem rc_testBit (x i : Nat) : (rc x i).testBit (i + 1) = !x.testBit (i + 1) := by
  rw [rc, Nat.testBit_xor, Nat.testBit_two_pow_self, Bool.true_xor]

/-- A set bit that is inverted takes its weight away, because inverting it again adds the weight back. -/
theorem rc_add_of_testBit_true {x i : Nat} (h : x.testBit (i + 1) = true) : rc x i + 2 ^ (i + 1) = x := by
  have hclear : (rc x i).testBit (i + 1) = false := by rw [rc_testBit, h, Bool.not_true]
  rw [← rc_of_testBit_false hclear, rc_rc]

/-- A round constant exceeds its input by at most the weight of the bit. -/
theorem rc_le (x i : Nat) : rc x i ≤ x + 2 ^ (i + 1) := by
  cases h : x.testBit (i + 1) with
  | false => exact (rc_of_testBit_false h).le
  | true => exact (Nat.le.intro (rc_add_of_testBit_true h)).trans (Nat.le_add_right x _)

/-- Settles O14: by the two values of the bit; the last input's bit 1 is 0, so its constant is not below `P`. -/
theorem roundConstantFlipsOneBit : Obligations.RoundConstantFlipsOneBit := by
  unfold Obligations.RoundConstantFlipsOneBit
  refine ⟨fun x i => ⟨rfl, rc_of_testBit_false, rc_add_of_testBit_true⟩, ?_⟩
  decide

/-! ## The round-constant addition (R73) -/

/-- The addition writes `pe.result` alone. -/
theorem Datapath.peAddConstant_pe (d : Datapath) :
    d.peAddConstant.pe =
      { d.pe with result := toExternal (fadd d.pe.result.toNat (rc d.pe.x.toNat d.pe.i.toNat)) } := rfl

/-- A residue fits its register, read as a word. -/
theorem toNat_toExternal_of_lt {r : Nat} (hr : r < Config.P) : (toExternal r).toNat = r :=
  toInternal_toExternal_reduced hr

/-- The constant of a round index exceeds the input by at most `2^8`. -/
theorem add_rc_lt {result x i : Nat} (hresult : result < Config.P) (hx : x < Config.P) (hi : i < 8) :
    result + rc x i < 2 * Config.P + 2 ^ 9 := by
  have hconst : rc x i ≤ x + 2 ^ (i + 1) := rc_le x i
  have hweight : 2 ^ (i + 1) ≤ 2 ^ 8 := Nat.pow_le_pow_right (by decide) hi
  omega

/-- Settles O15: the addition is `fadd` of the round constant, whose excess over `pe.x` bounds the sum. -/
theorem roundConstantAddition : Obligations.RoundConstantAddition := by
  unfold Obligations.RoundConstantAddition
  refine ⟨fun d => ⟨?_, rfl, rfl, rfl, add_rc_lt⟩, by decide⟩
  rw [Datapath.peAddConstant_pe]
  exact toNat_toExternal_of_lt (fadd_lt _ _)

/-! ## The S-box (R74) -/

theorem fmul_modEq (a b : Nat) : fmul a b ≡ a * b [MOD Config.P] := Nat.mod_modEq _ _

/-- The two squarings and the multiply are the fifth power: a reduction on the way does not change the residue. -/
theorem sbox_eq_pow (r : Nat) : sbox r = r ^ 5 % Config.P := by
  have square : fmul r r ≡ r * r [MOD Config.P] := fmul_modEq r r
  have fourth : fmul (fmul r r) (fmul r r) ≡ (r * r) * (r * r) [MOD Config.P] :=
    (fmul_modEq _ _).trans (square.mul square)
  calc sbox r
    _ = (r * r) * (r * r) * r % Config.P := fourth.mul_right r
    _ = r ^ 5 % Config.P := by ring_nf

theorem sbox_lt (r : Nat) : sbox r < Config.P := fmul_lt _ _

/-- The four assignments of the S-box compute `sbox` and keep the old result in `pe.t`: no intermediate product is cut
off by its register. -/
theorem Datapath.peSbox_pe (d : Datapath) :
    d.peSbox.pe = { d.pe with result := toExternal (sbox d.pe.result.toNat), t := d.pe.result } := by
  have kept (a b : Nat) : (toExternal (fmul a b)).toNat = fmul a b := toNat_toExternal_of_lt (fmul_lt a b)
  simp only [Datapath.peSbox, Datapath.peMulSaved, Datapath.peSquareResult, Datapath.peSquareSaved,
    Datapath.peMul_pe, Datapath.peSave_pe, kept, sbox, toInternal]

/-- Settles O16: the registers by the S-box's four assignments, the value by the fifth power. -/
theorem sboxIsTheFifthPower : Obligations.SboxIsTheFifthPower := by
  unfold Obligations.SboxIsTheFifthPower
  refine ⟨fun d => ⟨?_, rfl, rfl, rfl, rfl, rfl⟩, fun r => ⟨sbox_eq_pow r, rfl⟩, ?_⟩
  · rw [Datapath.peSbox_pe]
    exact (toNat_toExternal_of_lt (sbox_lt _)).trans (sbox_eq_pow _)
  · decide

/-! ## The permutation (R71, R75, R80) -/

/-- The rounds run in the order of their indices. -/
theorem roundsUpTo_eq_foldl (x n : Nat) :
    roundsUpTo x n = (List.range n).foldl (fun r i => round r x i) x := by
  induction n with
  | zero => rfl
  | succ n ih => rw [roundsUpTo, ih, List.range_succ, List.foldl_concat]

/-- Settles O17: `hash_single` folds the rounds over the first `FULL_ROUNDS` indices. -/
theorem permutationIsEightRounds : Obligations.PermutationIsEightRounds := by
  unfold Obligations.PermutationIsEightRounds
  refine ⟨fun x => roundsUpTo_eq_foldl x 8, fun _ _ _ => rfl, ?_⟩
  decide

/-- Settles O18: the last round ends in a reduction. -/
theorem permutationRange : Obligations.PermutationRange := by
  unfold Obligations.PermutationRange
  exact ⟨fun x _ => hashSingle_lt x, by decide⟩

/-! ## The boundary through the interface (R82) -/

/-- The canonical payload of one word decodes to it in both modes: it is exactly 32 bytes long (R52, R98). -/
theorem decodeP1_abiEncode1 (strict : Bool) (x : Word) : decodeP1 strict (abiEncode1 x) = .ok x := by
  have hlen : (abiEncode1 x).length = 32 := beBytes_length 32 x.toNat
  have hword : payloadWord (abiEncode1 x) 0 = x := by
    simpa only [abiEncode1, List.append_nil] using payloadWord_front x []
  simp [decodeP1, hlen, hword]

/-- The canonical call of poseidon1 is the single hash of its argument (R102). -/
theorem exec_poseidon1_abiEncode1 (x : Word) (s : State) :
    exec (.poseidon1 (abiEncode1 x)) s = .next (s.runSingle x) :=
  congrArg Host.Outcome.next (State.afterDecode_ok (decodeP1_abiEncode1 Config.abiStrict x) _ s)

/-- `HASH1` is the single hash of its operand (R105). -/
theorem exec_hash1 (x : Word) (s : State) : exec (.hash1 x) s = .next (s.runSingle x) := rfl

theorem State.runSingle_rsp_of_lt {x : Word} (hx : x.toNat < Config.P) (s : State) :
    (s.runSingle x).rsp = ⟨statusOk, be32 (toExternal (hashSingle x.toNat)), 0⟩ := by
  rcases State.runSingle_cases x s with ⟨-, t, h⟩ | ⟨hge, -⟩
  · rw [h, State.complete_rsp]
  · exact absurd hx hge.not_gt

/-- An operand that does not validate is raised before the engine starts (R65). -/
theorem State.runSingle_of_ge {x : Word} (hx : Config.P ≤ x.toNat) (s : State) :
    s.runSingle x = s.raise (.fieldElementTooLarge x) := by
  simp only [State.runSingle, validate_of_ge hx]

theorem hashSingle_P_sub_one :
    hashSingle (Config.P - 1) = 0x27bed49c95142ea00804620cd2d4c5aa7348a2adee614a0b3ddb7d464b8fd334 := by decide

theorem toNat_ofNat_P : (BitVec.ofNat 256 Config.P).toNat = Config.P := by decide

theorem toNat_ofNat_P_sub_one : (BitVec.ofNat 256 (Config.P - 1)).toNat = Config.P - 1 := by decide

/-- Settles O30: both instructions are the single hash of their operand, and the operand's validation decides. -/
theorem boundaryThroughTheInterface : Obligations.BoundaryThroughTheInterface := by
  unfold Obligations.BoundaryThroughTheInterface
  intro i hi s
  have hrun : ∀ x, exec (i x) s = .next (s.runSingle x) := by
    rcases hi with rfl | rfl
    · exact fun x => exec_hash1 x s
    · exact fun x => exec_poseidon1_abiEncode1 x s
  refine ⟨⟨_, hrun _, ?_⟩, ⟨_, hrun _, ?_⟩⟩
  · have hlt : (BitVec.ofNat 256 (Config.P - 1)).toNat < Config.P := by
      rw [toNat_ofNat_P_sub_one]
      exact Nat.sub_lt P_pos Nat.one_pos
    rw [State.runSingle_rsp_of_lt hlt, toNat_ofNat_P_sub_one, hashSingle_P_sub_one]
    rfl
  · rw [State.runSingle_of_ge toNat_ofNat_P.ge]
    exact ⟨rfl, rfl, rfl⟩

end Sys2Proof.Machine

/-! PROOFS. The pair mixer (R83, R85, R88): both sums it reduces are bounded by multiples of `P`, and the first of them,
being at least 1 and below `2P`, reduces to 0 only when it is `P` itself. -/

namespace Sys2Proof.Machine

/-- From `P` up to `2P`, reduction takes `P` away once. -/
theorem reduce_of_lt_two_mul {v : Nat} (hge : Config.P ≤ v) (hlt : v < 2 * Config.P) : reduce v = v - Config.P :=
  (eq_reduce_of_eq_mul_add (q := 1) (by omega) (by omega)).symm

/-- The only positive multiple of `P` below `2P` is `P`. -/
theorem reduce_eq_zero_iff_of_lt_two_mul {v : Nat} (hpos : 0 < v) (hlt : v < 2 * Config.P) :
    reduce v = 0 ↔ v = Config.P := by
  rcases Nat.lt_or_ge v Config.P with hbelow | hge
  · rw [reduce_of_lt hbelow]
    omega
  · rw [reduce_of_lt_two_mul hge hlt]
    omega

/-- The width of R83 for the second sum, inside `WIDE`. -/
theorem nine_mul_P_lt : 9 * Config.P < 2 ^ 258 := by
  have hwidth : 258 = 2 + 256 := rfl
  rw [hwidth, Nat.pow_add]
  decide

section
variable {left right : Nat} (hleft : left < Config.P) (hright : right < Config.P)
include hleft hright

theorem combinedSum_lt : left + right + 1 < 2 * Config.P := by
  omega

/-- The weights 3 and 5 and the permutation's result give nine terms, each at most `P - 1`. -/
theorem remixedSum_lt {combined : Nat} : 3 * left + 5 * right + hashSingle combined < 9 * Config.P := by
  have hintermediate : hashSingle combined < Config.P := hashSingle_lt combined
  omega

/-- `combined` wraps to 0 on one sum only (R83). -/
theorem combined_eq_zero_iff : reduce (left + right + 1) = 0 ↔ left + right = Config.P - 1 :=
  (reduce_eq_zero_iff_of_lt_two_mul (Nat.succ_pos _) (combinedSum_lt hleft hright)).trans
    (by omega)

end

/-- `combined` is 4 for the operands 1 and 2 in either order, so both orders share this intermediate result. -/
theorem hashSingle_four :
    hashSingle 4 = 0x154dbf8c3965d7163a86c1082769cb0bdf6ba22343ce7e0ff8957d67e63bcd0f := by decide

/-- The example of R83. -/
theorem hashPair_one_two :
    hashPair 1 2 = 0x0743aa7d83747d9a87eaa9c6ba83e05a06e7c38fca8e7a6499d0bfdba7d341c7 := by
  have hremixed : hashPair 1 2 = hashSingle (reduce (13 + hashSingle 4)) := rfl
  rw [hremixed, hashSingle_four]
  decide

/-- The example of R88: the swapped operands differ in the weighted sum alone. -/
theorem hashPair_two_one :
    hashPair 2 1 = 0x0ad9c6e42e17f6890201572d5565867abe63c2e0e76b2e6946563458652904c1 := by
  have hremixed : hashPair 2 1 = hashSingle (reduce (11 + hashSingle 4)) := rfl
  rw [hremixed, hashSingle_four]
  decide

/-- Settles O19: `hash_pair` by its definition, its two sums by their bounds, the wrap by the first bound; the examples
share their first permutation and differ in the second. -/
theorem pairMixIsTwoPermutations : Obligations.PairMixIsTwoPermutations := by
  unfold Obligations.PairMixIsTwoPermutations
  exact ⟨fun left right hleft hright => ⟨rfl, combinedSum_lt hleft hright, remixedSum_lt hleft hright,
    combined_eq_zero_iff hleft hright⟩, nine_mul_P_lt, hashPair_one_two, hashPair_two_one⟩

end Sys2Proof.Machine

/-! PROOFS. The array chainer (R89 to R94, R104): `hash_array` is its validation and then a left fold of `hash_pair`, so
an appended element is the last one folded in, and a fold over one element does not run. -/

namespace Sys2Proof.Machine

/-! ## The fold (R94) -/

/-- An appended element is folded last: it is mixed, on the right, into the fold of the elements before it. -/
theorem foldPairs_concat (acc : Nat) (es : List Word) (x : Word) :
    foldPairs acc (es ++ [x]) = hashPair (foldPairs acc es) x.toNat := List.foldl_concat ..

/-- The chaining law of R94 in its general form. -/
theorem hashArray_concat {e x : Word} {es : List Word} (hvalid : ∀ y ∈ e :: es, y.toNat < Config.P)
    (hx : x.toNat < Config.P) :
    hashArray ((e :: es) ++ [x]) = .ok (hashPair (foldPairs e.toNat es) x.toNat) := by
  have happended : ∀ y ∈ e :: (es ++ [x]), y.toNat < Config.P :=
    List.forall_mem_append.mpr ⟨hvalid, List.forall_mem_singleton.mpr hx⟩
  rw [List.cons_append, hashArray_of_valid e (es ++ [x]) happended, foldPairs_concat]

/-- A one-element array is answered with the element itself (R93): its fold has nothing to mix. -/
theorem hashArray_singleton {x : Word} (hx : x.toNat < Config.P) : hashArray [x] = .ok x.toNat :=
  hashArray_of_valid x [] (List.forall_mem_singleton.mpr hx)

/-- The three-element form of R94. -/
theorem hashArray_three {a b c : Word} (ha : a.toNat < Config.P) (hb : b.toNat < Config.P)
    (hc : c.toNat < Config.P) :
    hashArray [a, b, c] = .ok (hashPair (hashPair a.toNat b.toNat) c.toNat) :=
  hashArray_of_valid a [b, c] (List.forall_mem_cons.mpr
    ⟨ha, List.forall_mem_cons.mpr ⟨hb, List.forall_mem_singleton.mpr hc⟩⟩)

/-- Settles O20: the appended array is valid too, and its fold ends with the appended element. -/
theorem chainingLaw : Obligations.ChainingLaw := by
  unfold Obligations.ChainingLaw
  exact ⟨fun e x es hvalid hx => ⟨foldPairs e.toNat es, hashArray_of_valid e es hvalid, hashArray_concat hvalid hx⟩,
    fun _ _ _ => hashArray_three⟩

/-! ## The outcomes of `hash_array` (R89, R90) -/

/-- The first permutation of the second fold step over 1, 2, 3: `combined` is the accumulator plus 3 plus 1. -/
theorem hashSingle_combined_three :
    hashSingle (reduce (hashPair 1 2 + 4)) = 0x268caa57c583cbddf8651cd4ec56a0fe9de625fa312353ea6b87fbc9e08d0f1f := by
  rw [hashPair_one_two]
  decide

/-- The second permutation of that step, on its weighted sum. -/
theorem hashPair_hashPair_one_two_three :
    hashPair (hashPair 1 2) 3 = 0x1e8a3e78f8d6d0eb01c2400a4cc4770387d630a898962bbaab5afa61408e4468 := by
  have hremixed (h : Nat) : hashPair h 3 = hashSingle (reduce (3 * h + 15 + hashSingle (reduce (h + 4)))) := rfl
  rw [hremixed, hashSingle_combined_three, hashPair_one_two]
  decide

/-- The example of R89. -/
theorem hashArray_one_two_three :
    hashArray [1, 2, 3] = .ok 0x1e8a3e78f8d6d0eb01c2400a4cc4770387d630a898962bbaab5afa61408e4468 := by
  have hfold : hashArray [1, 2, 3] = .ok (hashPair (hashPair 1 2) 3) :=
    hashArray_three (by decide) (by decide) (by decide)
  rw [hfold, hashPair_hashPair_one_two_three]

/-- Settles O21: the validation loop stops at the first element out of range, and a valid array reaches the fold. -/
theorem arrayHashOutcomes : Obligations.ArrayHashOutcomes := by
  unfold Obligations.ArrayHashOutcomes
  exact ⟨rfl, fun _ _ _ hgood hbad => hashArray_of_invalid (validateAll_of_first_ge hgood hbad),
    hashArray_of_valid, hashArray_one_two_three⟩

/-! ## The canonical array payload decodes to its elements (R53, R99) -/

/-- The element words of a canonical payload are 32 bytes each. -/
theorem flatMap_beBytes_length (elems : List Word) :
    (elems.flatMap fun e => beBytes 32 e.toNat).length = 32 * elems.length := by
  simp [List.length_flatMap, Nat.mul_comm]

/-- The `k`-th word of a run of encoded words is the `k`-th of them: `k` words of 32 bytes precede it. -/
theorem payloadWord_flatMap (elems : List Word) (k : Nat) (hk : k < elems.length) :
    payloadWord (elems.flatMap fun e => beBytes 32 e.toNat) (32 * k) = elems[k] := by
  induction elems generalizing k with
  | nil => cases hk
  | cons e es ih =>
    rw [List.flatMap_cons]
    cases k with
    | zero => exact payloadWord_front e _
    | succ k =>
      have hskip := payloadWord_skip (beBytes 32 e.toNat) (es.flatMap fun e => beBytes 32 e.toNat) (32 * k)
      rw [beBytes_length, Nat.add_comm, ← Nat.mul_succ] at hskip
      exact hskip.trans (ih k (Nat.lt_of_succ_lt_succ hk))

theorem abiEncodeN_length (elems : List Word) : (abiEncodeN elems).length = 64 + 32 * elems.length := by
  simp only [abiEncodeN, List.length_append, beBytes_length, flatMap_beBytes_length]
  omega

/-- The offset word of a canonical payload (R53). -/
theorem payloadWord_abiEncodeN_offset (elems : List Word) : payloadWord (abiEncodeN elems) 0 = 32 :=
  payloadWord_front 32 _

/-- What stands behind the offset word of a canonical payload. -/
theorem payloadWord_abiEncodeN_skip (elems : List Word) (k : Nat) :
    payloadWord (abiEncodeN elems) (32 + k) =
      payloadWord (beBytes 32 elems.length ++ elems.flatMap fun e => beBytes 32 e.toNat) k :=
  payloadWord_skip (beBytes 32 32) _ k

/-- The count word of a canonical payload, when the count fits one (R53). -/
theorem payloadWord_abiEncodeN_count {elems : List Word} (hlen : elems.length < 2 ^ 256) :
    (payloadWord (abiEncodeN elems) 32).toNat = elems.length := by
  have hcount : (BitVec.ofNat 256 elems.length).toNat = elems.length := Nat.mod_eq_of_lt hlen
  have hfront := payloadWord_front (BitVec.ofNat 256 elems.length) (elems.flatMap fun e => beBytes 32 e.toNat)
  rw [hcount, ← payloadWord_abiEncodeN_skip] at hfront
  rw [hfront, hcount]

/-- The elements read behind the offset and count words are those encoded (R53, R99). -/
theorem arrayElems_abiEncodeN (elems : List Word) : arrayElems (abiEncodeN elems) 32 elems.length = elems := by
  refine List.ext_getElem (by simp) fun k _ hk => ?_
  have hskip := payloadWord_skip (beBytes 32 elems.length) (elems.flatMap fun e => beBytes 32 e.toNat) (32 * k)
  rw [beBytes_length] at hskip
  simp only [arrayElems, List.getElem_map, List.getElem_range]
  rw [Nat.add_assoc, payloadWord_abiEncodeN_skip, hskip, payloadWord_flatMap elems k hk]

/-- The canonical payload of an array decodes to it in both modes: it passes the three checks and the canonical
form (R53, R99, R100). -/
theorem decodePN_abiEncodeN (strict : Bool) {elems : List Word} (hlen : elems.length < 2 ^ 256) :
    decodePN strict (abiEncodeN elems) = .ok elems := by
  have htotal := abiEncodeN_length elems
  have hoffset : 32 = (payloadWord (abiEncodeN elems) 0).toNat := by
    rw [payloadWord_abiEncodeN_offset]; rfl
  rcases decodePN_cases strict (abiEncodeN elems) 32 elems.length hoffset
      (payloadWord_abiEncodeN_count hlen).symm with
    ⟨hshort, -⟩ | ⟨-, hshort, -⟩ | ⟨-, hshort, -⟩ | ⟨-, -, hform, -⟩ | ⟨-, -, hok⟩
  · omega
  · omega
  · omega
  · exact absurd ⟨rfl, htotal⟩ hform
  · rw [hok, arrayElems_abiEncodeN]

/-- The canonical call of poseidonN is the array hash of its elements (R104). -/
theorem exec_poseidonN_abiEncodeN {elems : List Word} (hlen : elems.length < 2 ^ 256) (s : State) :
    exec (.poseidonN (abiEncodeN elems)) s = .next (s.runArray elems) :=
  congrArg Host.Outcome.next (State.afterDecode_ok (decodePN_abiEncodeN Config.abiStrict hlen) _ s)

/-! ## One element (R93) -/

/-- The chainer's run on one element leaves the other units, and the work count, as they were. -/
theorem Datapath.acRun_singleton {d : Datapath} {x : Word} (h : d.ac.elem = [x]) :
    d.acRun = { d with ac := ⟨[x], 1, x⟩ } := by
  obtain ⟨pe, pm, hrun, hnil, -⟩ := Datapath.acRun_spec d x [] h
  obtain ⟨rfl, rfl⟩ := hnil rfl
  have hword : toExternal (foldPairs x.toNat []) = x := toExternal_toInternal x
  rw [hrun, hword]
  rfl

/-- The array hash of one valid element answers that element, and only the chainer's registers change. -/
theorem State.runArray_singleton {x : Word} (hx : x.toNat < Config.P) (s : State) :
    s.runArray [x] = (s.setDp { s.dp with ac := ⟨[x], 1, x⟩ }).complete x := by
  have hvalid : validateAll [x] = .ok () := validateAll_of_lt (List.forall_mem_singleton.mpr hx)
  have hrun : (s.dp.acLoad [x]).acRun = { s.dp with ac := ⟨[x], 1, x⟩ } := Datapath.acRun_singleton rfl
  rw [State.runArray, State.runLoaded, if_neg (by simp [Ac.n])]
  simp only [State.setDp_dp, Datapath.acLoad_ac, hvalid, hrun]
  rfl

/-- Settles O31: the canonical payload of one element decodes to it, and the fold over it takes no step. -/
theorem singleElementIsUnhashed : Obligations.SingleElementIsUnhashed := by
  unfold Obligations.SingleElementIsUnhashed
  refine ⟨fun _ => hashArray_singleton, by decide, fun x s hx => ⟨?_, ?_⟩⟩
  · exact ⟨_, exec_poseidon1_abiEncode1 x s, State.runSingle_rsp_of_lt hx s⟩
  · refine ⟨_, exec_poseidonN_abiEncodeN (by simp) s, ?_⟩
    rw [State.runArray_singleton hx]
    exact ⟨rfl, rfl, rfl, rfl⟩

end Sys2Proof.Machine

/-! PROOFS. The ABI decodes (R98 to R101): which branch a payload takes, that a strict decode fixes every word of its
payload and so the payload itself, and that a failed decode ends its call with nothing computed. -/

namespace Sys2Proof.Machine

/-! ## Big-endian numbers and words determine their bytes -/

/-- Byte sequences of one length with one big-endian number are equal: its remainder by the weight of the first byte is
the number of the other bytes, and what the remainder leaves is the first byte's part. -/
theorem be_injective {as bs : List Byte} (hlen : as.length = bs.length) (h : be as = be bs) : as = bs := by
  induction as generalizing bs with
  | nil => exact (List.eq_nil_of_length_eq_zero hlen.symm).symm
  | cons a as ih =>
    cases bs with
    | nil => cases hlen
    | cons b bs =>
      have htail : as.length = bs.length := Nat.succ.inj hlen
      have ha : be as < 256 ^ bs.length := htail ▸ be_lt as
      have hb : be bs < 256 ^ bs.length := be_lt bs
      rw [be, be, htail] at h
      have hrest : be as = be bs := by
        have hmod := congrArg (· % 256 ^ bs.length) h
        rwa [Nat.mul_add_mod', Nat.mul_add_mod', Nat.mod_eq_of_lt ha, Nat.mod_eq_of_lt hb] at hmod
      have hfirst : a.toNat = b.toNat :=
        Nat.eq_of_mul_eq_mul_right (Nat.pow_pos (by decide)) (Nat.add_right_cancel (hrest ▸ h))
      rw [BitVec.eq_of_toNat_eq hfirst, ih htail hrest]

/-- A word behind the first `k` bytes of a payload is a word of the payload. -/
theorem payloadWord_drop (p : List Byte) (k j : Nat) : payloadWord (p.drop k) j = payloadWord p (k + j) := by
  rw [payloadWord, payloadWord, memRead_drop]

/-- Payloads that agree in their first word agree in their first 32 bytes. -/
theorem take_eq_of_payloadWord_eq {p q : List Byte} (hp : 32 ≤ p.length) (hq : 32 ≤ q.length)
    (h : payloadWord p 0 = payloadWord q 0) : p.take 32 = q.take 32 := by
  have hbe : be (p.take 32) = be (q.take 32) :=
    calc be (p.take 32)
      _ = (payloadWord p 0).toNat := (payloadWord_toNat p 0).symm
      _ = (payloadWord q 0).toNat := by rw [h]
      _ = be (q.take 32) := payloadWord_toNat q 0
  exact be_injective (by simp [hp, hq]) hbe

/-- Payloads of `m` words that agree in every word are equal. -/
theorem eq_of_payloadWord_eq {m : Nat} {p q : List Byte} (hp : p.length = 32 * m) (hq : q.length = 32 * m)
    (h : ∀ k < m, payloadWord p (32 * k) = payloadWord q (32 * k)) : p = q := by
  induction m generalizing p q with
  | zero => rw [List.eq_nil_of_length_eq_zero hp, List.eq_nil_of_length_eq_zero hq]
  | succ m ih =>
    have hfirst : p.take 32 = q.take 32 :=
      take_eq_of_payloadWord_eq (by omega) (by omega) (h 0 m.succ_pos)
    have hrest : p.drop 32 = q.drop 32 := by
      refine ih (by rw [List.length_drop]; omega) (by rw [List.length_drop]; omega) fun k hk => ?_
      rw [payloadWord_drop, payloadWord_drop, Nat.add_comm, ← Nat.mul_succ]
      exact h (k + 1) (Nat.succ_lt_succ hk)
    rw [← List.take_append_drop 32 p, hfirst, hrest, List.take_append_drop]

/-! ## What a strict decode fixes of its payload (R100) -/

theorem decodeP1_strict_ok {p : List Byte} {x : Word} (h : decodeP1 true p = .ok x) :
    p.length = 32 ∧ payloadWord p 0 = x := by
  rcases decodeP1_cases true p with ⟨-, hd⟩ | ⟨-, -, hd⟩ | ⟨-, hlen, hd⟩ <;> rw [hd] at h <;> cases h
  exact ⟨hlen rfl, rfl⟩

theorem decodeP2_strict_ok {p : List Byte} {a b : Word} (h : decodeP2 true p = .ok (a, b)) :
    p.length = 64 ∧ payloadWord p 0 = a ∧ payloadWord p 32 = b := by
  rcases decodeP2_cases true p with ⟨-, hd⟩ | ⟨-, -, hd⟩ | ⟨-, hlen, hd⟩ <;> rw [hd] at h <;> cases h
  exact ⟨hlen rfl, rfl, rfl⟩

theorem decodePN_strict_ok {p : List Byte} {elems : List Word} (h : decodePN true p = .ok elems) :
    p.length = 64 + 32 * elems.length ∧ payloadWord p 0 = 32 ∧
      (payloadWord p 32).toNat = elems.length ∧ arrayElems p 32 elems.length = elems := by
  rcases decodePN_cases true p _ _ rfl rfl with ⟨-, hd⟩ | ⟨-, -, hd⟩ | ⟨-, -, hd⟩ | ⟨-, -, -, hd⟩ | ⟨-, hform, hd⟩ <;>
    rw [hd] at h <;> cases h
  obtain ⟨hoffset, hlen⟩ := hform rfl
  rw [hoffset] at hlen ⊢
  rw [arrayElems_length]
  exact ⟨hlen, BitVec.eq_of_toNat_eq hoffset, rfl, rfl⟩

/-- The word of element `k` of an array, behind an offset word 32 and the count word (R53). -/
theorem payloadWord_of_arrayElems_eq {p : List Byte} {elems : List Word} {k : Nat}
    (h : arrayElems p 32 elems.length = elems) (hk : k < elems.length) :
    payloadWord p (32 * (k + 2)) = elems[k] := by
  have hat : (arrayElems p 32 elems.length)[k]'(by simpa using hk) = payloadWord p (32 + 32 + 32 * k) := by
    simp [arrayElems]
  have haddr : 32 * (k + 2) = 32 + 32 + 32 * k := by omega
  rw [haddr, ← hat]
  simp only [h]

/-! ## Two payloads that a strict decode answers alike are equal -/

theorem decodeP1_strict_injective {p q : List Byte} {x : Word} (hp : decodeP1 true p = .ok x)
    (hq : decodeP1 true q = .ok x) : p = q := by
  obtain ⟨hplen, hpx⟩ := decodeP1_strict_ok hp
  obtain ⟨hqlen, hqx⟩ := decodeP1_strict_ok hq
  refine eq_of_payloadWord_eq (m := 1) hplen hqlen fun k hk => ?_
  obtain rfl : k = 0 := by omega
  exact hpx.trans hqx.symm

theorem decodeP2_strict_injective {p q : List Byte} {a b : Word} (hp : decodeP2 true p = .ok (a, b))
    (hq : decodeP2 true q = .ok (a, b)) : p = q := by
  obtain ⟨hplen, hpa, hpb⟩ := decodeP2_strict_ok hp
  obtain ⟨hqlen, hqa, hqb⟩ := decodeP2_strict_ok hq
  refine eq_of_payloadWord_eq (m := 2) hplen hqlen fun k hk => ?_
  match k with
  | 0 => exact hpa.trans hqa.symm
  | 1 => exact hpb.trans hqb.symm

/-- The offset word is fixed, the count word is the number of elements, and the other words are the elements. -/
theorem decodePN_strict_injective {p q : List Byte} {elems : List Word} (hp : decodePN true p = .ok elems)
    (hq : decodePN true q = .ok elems) : p = q := by
  obtain ⟨hplen, hpoffset, hpcount, hpelems⟩ := decodePN_strict_ok hp
  obtain ⟨hqlen, hqoffset, hqcount, hqelems⟩ := decodePN_strict_ok hq
  refine eq_of_payloadWord_eq (m := elems.length + 2) (by omega) (by omega) fun k hk => ?_
  match k with
  | 0 => exact hpoffset.trans hqoffset.symm
  | 1 => exact BitVec.eq_of_toNat_eq (hpcount.trans hqcount.symm)
  | k + 2 =>
    have hk : k < elems.length := Nat.lt_of_add_lt_add_right hk
    rw [payloadWord_of_arrayElems_eq hpelems hk, payloadWord_of_arrayElems_eq hqelems hk]

/-! ## The canonical payloads are the ones a strict decode accepts (R52, R53, R100) -/

theorem decodeP2_abiEncode2 (strict : Bool) (a b : Word) : decodeP2 strict (abiEncode2 a b) = .ok (a, b) := by
  have hlen : (abiEncode2 a b).length = 64 := by simp [abiEncode2]
  have ha : payloadWord (abiEncode2 a b) 0 = a := payloadWord_front a _
  have hb : payloadWord (abiEncode2 a b) 32 = b := by
    have hskip := payloadWord_skip (beBytes 32 a.toNat) (beBytes 32 b.toNat ++ []) 0
    rw [payloadWord_front, beBytes_length, List.append_nil] at hskip
    exact hskip
  simp [decodeP2, hlen, ha, hb]

theorem decodeP1_strict_ok_iff (p : List Byte) (x : Word) : decodeP1 true p = .ok x ↔ p = abiEncode1 x := by
  constructor
  · exact fun h => decodeP1_strict_injective h (decodeP1_abiEncode1 true x)
  · rintro rfl
    exact decodeP1_abiEncode1 true x

theorem decodeP2_strict_ok_iff (p : List Byte) (a b : Word) :
    decodeP2 true p = .ok (a, b) ↔ p = abiEncode2 a b := by
  constructor
  · exact fun h => decodeP2_strict_injective h (decodeP2_abiEncode2 true a b)
  · rintro rfl
    exact decodeP2_abiEncode2 true a b

/-- The count word of an accepted payload bounds the number of its elements. -/
theorem decodePN_strict_ok_iff (p : List Byte) (elems : List Word) :
    decodePN true p = .ok elems ↔ elems.length < 2 ^ 256 ∧ p = abiEncodeN elems := by
  constructor
  · intro h
    obtain ⟨-, -, hcount, -⟩ := decodePN_strict_ok h
    have hlen : elems.length < 2 ^ 256 := hcount ▸ (payloadWord p 32).isLt
    exact ⟨hlen, decodePN_strict_injective h (decodePN_abiEncodeN true hlen)⟩
  · rintro ⟨hlen, rfl⟩
    exact decodePN_abiEncodeN true hlen

/-- What passes the three checks of R99 passes them in strict mode too: only the canonical form is left to fail
(R100). -/
theorem decodePN_strict_of_lenient {p : List Byte} {elems : List Word} (h : decodePN false p = .ok elems) :
    decodePN true p = .ok elems ∨ decodePN true p = .error (.abiDecodeError .nonCanonical) := by
  rcases decodePN_cases false p _ _ rfl rfl with
    ⟨-, hd⟩ | ⟨-, -, hd⟩ | ⟨-, -, hd⟩ | ⟨-, -, -, hd⟩ | ⟨hfit, -, hd⟩ <;> rw [hd] at h <;> cases h
  rcases decodePN_cases true p _ _ rfl rfl with
    ⟨hshort, -⟩ | ⟨-, hshort, -⟩ | ⟨-, hshort, -⟩ | ⟨-, -, -, hstrict⟩ | ⟨-, -, hstrict⟩
  · omega
  · omega
  · omega
  · exact .inr hstrict
  · exact .inl hstrict

/-- Settles O24: a strict decode is injective and accepts the canonical payload of its arguments, so it accepts no
other; the lenient decode accepts that payload too. -/
theorem strictAcceptsExactlyCanonical : Obligations.StrictAcceptsExactlyCanonical := by
  unfold Obligations.StrictAcceptsExactlyCanonical
  refine ⟨decodeP1_strict_ok_iff, decodeP2_strict_ok_iff, decodePN_strict_ok_iff, ?_, ?_, ?_, ?_, rfl⟩
  · intro p x h
    rw [(decodeP1_strict_ok_iff p x).mp h, decodeP1_abiEncode1]
  · intro p ab h
    rw [(decodeP2_strict_ok_iff p ab.1 ab.2).mp h, decodeP2_abiEncode2]
  · intro p elems h
    obtain ⟨hlen, rfl⟩ := (decodePN_strict_ok_iff p elems).mp h
    exact decodePN_abiEncodeN false hlen
  · intro p elems h hne
    have hrejected : decodePN true p ≠ .ok elems := fun hok => hne ((decodePN_strict_ok_iff p elems).mp hok).2
    exact (decodePN_strict_of_lenient h).resolve_left hrejected

/-! ## The fixed shapes by the payload's length (R98) -/

theorem decodeP1_of_short (strict : Bool) {p : List Byte} (h : p.length < 32) :
    decodeP1 strict p = .error (.abiDecodeError .short) := if_pos h

theorem decodeP1_of_fits {strict : Bool} {p : List Byte} (hlen : 32 ≤ p.length)
    (hform : p.length = 32 ∨ strict = false) : decodeP1 strict p = .ok (payloadWord p 0) := by
  rcases decodeP1_cases strict p with ⟨hshort, -⟩ | ⟨hlong, hstrict, -⟩ | ⟨-, -, hd⟩
  · omega
  · simp [hstrict, hlong.ne'] at hform
  · exact hd

theorem decodeP1_strict_of_long {p : List Byte} (h : 32 < p.length) :
    decodeP1 true p = .error (.abiDecodeError .nonCanonical) := by
  rcases decodeP1_cases true p with ⟨hshort, -⟩ | ⟨-, -, hd⟩ | ⟨-, hlen, -⟩
  · omega
  · exact hd
  · exact absurd (hlen rfl) h.ne'

theorem decodeP2_of_short (strict : Bool) {p : List Byte} (h : p.length < 64) :
    decodeP2 strict p = .error (.abiDecodeError .short) := if_pos h

theorem decodeP2_of_fits {strict : Bool} {p : List Byte} (hlen : 64 ≤ p.length)
    (hform : p.length = 64 ∨ strict = false) :
    decodeP2 strict p = .ok (payloadWord p 0, payloadWord p 32) := by
  rcases decodeP2_cases strict p with ⟨hshort, -⟩ | ⟨hlong, hstrict, -⟩ | ⟨-, -, hd⟩
  · omega
  · simp [hstrict, hlong.ne'] at hform
  · exact hd

theorem decodeP2_strict_of_long {p : List Byte} (h : 64 < p.length) :
    decodeP2 true p = .error (.abiDecodeError .nonCanonical) := by
  rcases decodeP2_cases true p with ⟨hshort, -⟩ | ⟨-, -, hd⟩ | ⟨-, hlen, -⟩
  · omega
  · exact hd
  · exact absurd (hlen rfl) h.ne'

/-- Settles O22: the length of the payload and the mode select the branch of each decode. -/
theorem fixedShapeDecode : Obligations.FixedShapeDecode := by
  unfold Obligations.FixedShapeDecode
  intro strict p
  exact ⟨decodeP1_of_short strict, decodeP1_of_fits, decodeP1_strict_of_long,
    decodeP2_of_short strict, decodeP2_of_fits, decodeP2_strict_of_long⟩

/-! ## The array by its offset and count words (R99) -/

section
variable {p : List Byte} {o n : Nat}

theorem decodePN_of_short (strict : Bool) (h : p.length < 32) :
    decodePN strict p = .error (.abiDecodeError .short) := if_pos h

theorem decodePN_of_offset_outside (strict : Bool) (ho : o = (payloadWord p 0).toNat) (hlen : 32 ≤ p.length)
    (hout : p.length < o + 32) : decodePN strict p = .error (.abiDecodeError .offset) := by
  rcases decodePN_cases strict p o _ ho rfl with ⟨hshort, -⟩ | ⟨-, -, hd⟩ | ⟨hin, -⟩ | ⟨hin, -⟩ | ⟨hin, -⟩
  · omega
  · exact hd
  · omega
  · omega
  · omega

theorem decodePN_of_elements_outside (strict : Bool) (ho : o = (payloadWord p 0).toNat)
    (hn : n = (payloadWord p o).toNat) (hlen : o + 32 ≤ p.length) (hout : p.length < o + 32 + 32 * n) :
    decodePN strict p = .error (.abiDecodeError .length) := by
  rcases decodePN_cases strict p o n ho hn with ⟨hshort, -⟩ | ⟨-, hshort, -⟩ | ⟨-, -, hd⟩ | ⟨hin, -⟩ | ⟨hin, -⟩
  · omega
  · omega
  · exact hd
  · omega
  · omega

theorem decodePN_lenient_of_fits (ho : o = (payloadWord p 0).toNat) (hn : n = (payloadWord p o).toNat)
    (hfit : o + 32 + 32 * n ≤ p.length) : decodePN false p = .ok (arrayElems p o n) := by
  rcases decodePN_cases false p o n ho hn with
    ⟨hshort, -⟩ | ⟨-, hshort, -⟩ | ⟨-, hshort, -⟩ | ⟨-, hstrict, -⟩ | ⟨-, -, hd⟩
  · omega
  · omega
  · omega
  · cases hstrict
  · exact hd

theorem arrayElems_getElem? {k : Nat} (hk : k < n) :
    (arrayElems p o n)[k]? = some (payloadWord p (o + 32 + 32 * k)) := by
  simp [arrayElems, hk]

end

/-- Settles O23: the offset and the count are the words the decode reads, each as its whole number, so the exact checks
select its branch. -/
theorem arrayDecodeLenient : Obligations.ArrayDecodeLenient := by
  unfold Obligations.ArrayDecodeLenient
  intro p o n ho hn
  have hoffset : o = (payloadWord p 0).toNat := ho.trans (payloadWord_toNat p 0).symm
  have hcount : n = (payloadWord p o).toNat := hn.trans (payloadWord_toNat p o).symm
  refine ⟨fun strict => ⟨decodePN_of_short strict, decodePN_of_offset_outside strict hoffset, fun _ =>
    decodePN_of_elements_outside strict hoffset hcount⟩, fun _ hfit => ?_⟩
  exact ⟨arrayElems p o n, decodePN_lenient_of_fits hoffset hcount hfit, arrayElems_length p o n,
    fun _ => arrayElems_getElem?⟩

/-! ## A failed decode computes nothing (R101) -/

theorem decodeP1_error {strict : Bool} {p : List Byte} {e : Raised} (h : decodeP1 strict p = .error e) :
    ∃ why, e = .abiDecodeError why := by
  rcases decodeP1_cases strict p with ⟨-, hd⟩ | ⟨-, -, hd⟩ | ⟨-, -, hd⟩ <;> rw [hd] at h <;> cases h <;>
    exact ⟨_, rfl⟩

theorem decodeP2_error {strict : Bool} {p : List Byte} {e : Raised} (h : decodeP2 strict p = .error e) :
    ∃ why, e = .abiDecodeError why := by
  rcases decodeP2_cases strict p with ⟨-, hd⟩ | ⟨-, -, hd⟩ | ⟨-, -, hd⟩ <;> rw [hd] at h <;> cases h <;>
    exact ⟨_, rfl⟩

theorem decodePN_error {strict : Bool} {p : List Byte} {e : Raised} (h : decodePN strict p = .error e) :
    ∃ why, e = .abiDecodeError why := by
  rcases decodePN_cases strict p _ _ rfl rfl with
    ⟨-, hd⟩ | ⟨-, -, hd⟩ | ⟨-, -, hd⟩ | ⟨-, -, -, hd⟩ | ⟨-, -, hd⟩ <;> rw [hd] at h <;> cases h <;>
    exact ⟨_, rfl⟩

/-- A call whose decode fails raises an `AbiDecodeError` from the state it started in. -/
theorem exec_of_decode_error {p : List Byte} {e : Raised} {i : Instr} (s : State)
    (h : (i = .poseidon1 p ∧ decodeP1 Config.abiStrict p = .error e) ∨
      (i = .poseidon2 p ∧ decodeP2 Config.abiStrict p = .error e) ∨
      (i = .poseidonN p ∧ decodePN Config.abiStrict p = .error e)) :
    (∃ why, e = .abiDecodeError why) ∧ exec i s = .next (s.raise e) := by
  rcases h with ⟨rfl, hd⟩ | ⟨rfl, hd⟩ | ⟨rfl, hd⟩
  · exact ⟨decodeP1_error hd, congrArg Host.Outcome.next (State.afterDecode_error hd _ s)⟩
  · exact ⟨decodeP2_error hd, congrArg Host.Outcome.next (State.afterDecode_error hd _ s)⟩
  · exact ⟨decodePN_error hd, congrArg Host.Outcome.next (State.afterDecode_error hd _ s)⟩

/-- Settles O33: the error of the decode is raised, and raising writes the response and the phase alone. -/
theorem decodeFailureComputesNothing : Obligations.DecodeFailureComputesNothing := by
  unfold Obligations.DecodeFailureComputesNothing
  refine ⟨rfl, rfl, rfl, rfl, fun p e s i h => ?_⟩
  obtain ⟨⟨why, rfl⟩, hexec⟩ := exec_of_decode_error s h
  exact ⟨_, why, rfl, hexec, rfl, rfl, rfl, rfl⟩

end Sys2Proof.Machine

/-! PROOFS. The computing step and the steps before it (R107, R109): every operation ends its transaction on new working
registers, so the computing step reaches DONE with an answer to the latched request, and a BUSY block waits its latency
out. -/

namespace Sys2Proof.Machine

/-! ## Every operation ends its transaction -/

/-- `t` ends the transaction of `s` (R107): the working registers are replaced, then the transaction is completed or an
error is raised. -/
def State.EndsIn (s t : State) : Prop :=
  ∃ d, (∃ v, t = (s.setDp d).complete v) ∨ ∃ e, t = (s.setDp d).raise e

theorem State.EndsIn.phase {s t : State} (h : s.EndsIn t) : t.phase = .done := by
  obtain ⟨d, ⟨v, rfl⟩ | ⟨e, rfl⟩⟩ := h <;> rfl

theorem State.EndsIn.req {s t : State} (h : s.EndsIn t) : t.req = s.req := by
  obtain ⟨d, ⟨v, rfl⟩ | ⟨e, rfl⟩⟩ := h <;> rfl

theorem State.endsIn_raise (e : Raised) (s : State) : s.EndsIn (s.raise e) := ⟨s.dp, .inr ⟨e, rfl⟩⟩

theorem State.endsIn_runSingle (x : Word) (s : State) : s.EndsIn (s.runSingle x) := by
  rcases State.runSingle_cases x s with ⟨-, t, h⟩ | ⟨-, h⟩ <;> rw [h]
  · exact ⟨_, .inl ⟨_, rfl⟩⟩
  · exact s.endsIn_raise _

theorem State.endsIn_runPair (a b : Word) (s : State) : s.EndsIn (s.runPair a b) := by
  rcases State.runPair_cases a b s with ⟨-, -, x, t, h⟩ | ⟨-, h⟩ | ⟨-, -, h⟩ <;> rw [h]
  · exact ⟨_, .inl ⟨_, rfl⟩⟩
  · exact s.endsIn_raise _
  · exact s.endsIn_raise _

/-- A failing array has loaded its elements first (R104). -/
theorem State.endsIn_runArray (elems : List Word) (s : State) : s.EndsIn (s.runArray elems) := by
  rcases State.runArray_cases elems s with ⟨-, h⟩ | ⟨_, _, _, -, -, -, h⟩ | ⟨_, _, _, _, -, -, h, -, -⟩ <;> rw [h]
  · exact ⟨_, .inr ⟨_, rfl⟩⟩
  · exact ⟨_, .inr ⟨_, rfl⟩⟩
  · exact ⟨_, .inl ⟨_, rfl⟩⟩

theorem State.endsIn_afterDecode {α : Type} {run : α → State → State} (decoded : Except Raised α) (s : State)
    (hrun : ∀ args, s.EndsIn (run args s)) : s.EndsIn (s.afterDecode decoded run) := by
  cases decoded with
  | error e => exact s.endsIn_raise e
  | ok args => exact hrun args

/-- Every operation ends its transaction, from every state (R102 to R106). -/
theorem exec_endsIn (i : Instr) (s : State) : ∃ t, exec i s = .next t ∧ s.EndsIn t := by
  cases i with
  | poseidon1 payload => exact ⟨_, rfl, s.endsIn_afterDecode _ fun x => s.endsIn_runSingle x⟩
  | poseidon2 payload => exact ⟨_, rfl, s.endsIn_afterDecode _ fun ab => s.endsIn_runPair ab.1 ab.2⟩
  | poseidonN payload => exact ⟨_, rfl, s.endsIn_afterDecode _ fun elems => s.endsIn_runArray elems⟩
  | hash1 a => exact ⟨_, rfl, s.endsIn_runSingle a⟩
  | hash2 a b => exact ⟨_, rfl, s.endsIn_runPair a b⟩

/-! ## The computing step (R107, R109) -/

/-- The selector stage never answers the reserved command. -/
theorem decodeCall_ne_reserved (buf : Memory) : decodeCall buf ≠ .reject .reservedCommand := by
  unfold decodeCall
  split_ifs <;> simp

/-- Command code 3 alone is the reserved one (R63). -/
theorem decode_eq_reserved_iff (r : Request) : decode r = .reject .reservedCommand ↔ r.cmd = 3#2 := by
  unfold decode
  split_ifs with h₀ h₁ h₂
  · simp [decodeCall_ne_reserved, h₀]
  · simp [h₁]
  · simp [h₂]
  · exact ⟨fun _ => by bv_omega, fun _ => rfl⟩

theorem compute_endsIn {s : State} (hcmd : s.req.cmd ≠ 3#2) : ∃ t, compute s = .next t ∧ s.EndsIn t := by
  cases hd : decode s.req with
  | instr i =>
    simp only [compute, hd]
    exact exec_endsIn i s
  | reject why =>
    cases why with
    | bufferTooShort | unknownSelector =>
      simp only [compute, hd]
      exact ⟨_, rfl, s.endsIn_raise _⟩
    | reservedCommand => exact absurd ((decode_eq_reserved_iff s.req).mp hd) hcmd

theorem compute_of_reserved {s : State} (hcmd : s.req.cmd = 3#2) : compute s = .refused .reservedCommand := by
  simp only [compute, (decode_eq_reserved_iff s.req).mpr hcmd]

/-- A computing step on an unreserved command reaches DONE with an answer to the request it keeps. -/
theorem State.Computing.step_reaches_done {s : State} (hs : s.Computing) (hcmd : s.req.cmd ≠ 3#2) :
    ∃ t, step s = .next t ∧ t.phase = .done ∧ t.req = s.req ∧ t.rsp.Answers Config.abiStrict s.req := by
  obtain ⟨t, hcompute, hends⟩ := compute_endsIn (s := s.advance) hcmd
  have hstep : step s = .next t := hs.step_eq.trans hcompute
  exact ⟨t, hstep, hends.phase, hends.req, hs.step_answers hstep⟩

/-- Settles O44: the computing step computes the latched request, and the computation ends the transaction with its
answer, or refuses the reserved command. -/
theorem computeRefinesRespond : Obligations.ComputeRefinesRespond := by
  unfold Obligations.ComputeRefinesRespond
  intro s hs
  exact ⟨hs.step_reaches_done, fun hcmd => hs.step_eq.trans (compute_of_reserved hcmd)⟩

/-! ## The waiting steps before it (R109) -/

/-- A BUSY block with latency left waits one step. -/
theorem step_of_busy_waiting {s : State} (hrun : s.Running) (hphase : s.phase = .busy) (hleft : s.busyLeft ≠ 0) :
    step s = .next s.advance.stayBusy := by
  obtain ⟨hrst, hheld⟩ := hrun
  simp [step, stepPhase, hrst, hheld, hphase, hleft]

/-- The signals of a step are the first scheduled ones, or quiet ones when none are scheduled: no reset acts on it when
none is scheduled in the next steps. -/
theorem State.pins_rst_of_take {s : State} {k : Nat} (h : ∀ p ∈ s.host.take (k + 1), p.rst = false) :
    s.pins.rst = false := by
  unfold State.pins
  cases hhost : s.host with
  | nil => rfl
  | cons p rest => exact h p (by simp [hhost])

/-- No reset in the next `k + 1` steps leaves none in the `k` steps after the next one. -/
theorem tail_take_rst {host : List Pins} {k : Nat} (h : ∀ p ∈ host.take (k + 1), p.rst = false) :
    ∀ p ∈ host.tail.take k, p.rst = false := by
  cases host with
  | nil => simp
  | cons q rest => exact fun p hp => h p (List.mem_cons_of_mem q hp)

/-- A BUSY block that no reset cuts waits its latency out and then computes: by induction on the latency left. -/
theorem runSteps_busy_reaches_done {s : State} {n : Nat} (hleft : s.busyLeft = n) (hphase : s.phase = .busy)
    (hcmd : s.req.cmd ≠ 3#2) (hheld : s.rstHeld = false) (hhost : ∀ p ∈ s.host.take (n + 1), p.rst = false) :
    ∃ t, runSteps (n + 1) s = .next t ∧ t.phase = .done ∧ t.req = s.req ∧
      t.rsp.Answers Config.abiStrict s.req := by
  induction n generalizing s with
  | zero =>
    have hs : s.Computing := ⟨⟨State.pins_rst_of_take hhost, hheld⟩, hphase, hleft⟩
    obtain ⟨t, hstep, hdone⟩ := hs.step_reaches_done hcmd
    exact ⟨t, runSteps_next 0 hstep, hdone⟩
  | succ n ih =>
    have hstep : step s = .next s.advance.stayBusy :=
      step_of_busy_waiting ⟨State.pins_rst_of_take hhost, hheld⟩ hphase (by omega)
    rw [runSteps_next _ hstep]
    exact ih (s := s.advance.stayBusy) (by simp [hleft]) hphase hcmd hheld (tail_take_rst hhost)

/-- Settles O56: the waiting steps count the latency down, and the step after them computes. -/
theorem transactionsReachDone : Obligations.TransactionsReachDone := by
  unfold Obligations.TransactionsReachDone
  intro s hphase hcmd hheld hhost
  exact runSteps_busy_reaches_done rfl hphase hcmd hheld hhost

end Sys2Proof.Machine

/-! PROOFS. Exceptions (R112 to R121) and copies (R129): an argument out of range is raised before the engine and the
mixer run; the errors of an outcome are those of the closed taxonomy, each with its cause; and a step of
one copy replaces that copy alone. -/

namespace Sys2Proof.Machine

/-! ## A call whose payload decodes runs its operation on the arguments (R102 to R104) -/

section
variable {p : List Byte}

theorem exec_poseidon1_of_decode {x : Word} (h : decodeP1 Config.abiStrict p = .ok x) (s : State) :
    exec (.poseidon1 p) s = .next (s.runSingle x) :=
  congrArg Host.Outcome.next (State.afterDecode_ok h _ s)

theorem exec_poseidon2_of_decode {a b : Word} (h : decodeP2 Config.abiStrict p = .ok (a, b)) (s : State) :
    exec (.poseidon2 p) s = .next (s.runPair a b) :=
  congrArg Host.Outcome.next (State.afterDecode_ok h _ s)

theorem exec_poseidonN_of_decode {elems : List Word} (h : decodePN Config.abiStrict p = .ok elems) (s : State) :
    exec (.poseidonN p) s = .next (s.runArray elems) :=
  congrArg Host.Outcome.next (State.afterDecode_ok h _ s)

end

/-- `HASH2` is the pair hash of its operands (R106). -/
theorem exec_hash2 (a b : Word) (s : State) : exec (.hash2 a b) s = .next (s.runPair a b) := rfl

/-! ## Errors raised before a unit runs (R90, R117) -/

theorem State.runPair_of_left_ge {a : Word} (ha : Config.P ≤ a.toNat) (b : Word) (s : State) :
    s.runPair a b = s.raise (.fieldElementTooLarge a) := by
  simp only [State.runPair, validate_of_ge ha]

theorem State.runPair_of_right_ge {a b : Word} (ha : a.toNat < Config.P) (hb : Config.P ≤ b.toNat) (s : State) :
    s.runPair a b = s.raise (.fieldElementTooLarge b) := by
  simp only [State.runPair, validate_of_lt ha, validate_of_ge hb]

/-- An array is loaded before it is validated, and its first bad element is raised (R91, R104). -/
theorem State.runArray_of_first_ge {good : List Word} {bad : Word} (hgood : ∀ e ∈ good, e.toNat < Config.P)
    (hbad : Config.P ≤ bad.toNat) (rest : List Word) (s : State) :
    s.runArray (good ++ bad :: rest) =
      (s.setDp (s.dp.acLoad (good ++ bad :: rest))).raise (.fieldElementTooLarge bad) := by
  have hn : (s.setDp (s.dp.acLoad (good ++ bad :: rest))).dp.ac.n ≠ 0 := by simp [Ac.n]
  rw [State.runArray, State.runLoaded, if_neg hn]
  simp only [State.setDp_dp, Datapath.acLoad_ac, validateAll_of_first_ge hgood hbad]

/-- An array without elements is loaded and then raised with its length (R90). -/
theorem State.runArray_nil (s : State) :
    s.runArray [] = (s.setDp (s.dp.acLoad [])).raise (.invalidInputLength 0) := rfl

/-- Settles O34: every clause raises the argument, from the state itself or, for an array, once its elements are
loaded. -/
theorem outOfRangeArgumentIsReported : Obligations.OutOfRangeArgumentIsReported := by
  unfold Obligations.OutOfRangeArgumentIsReported
  intro a s i ha hi
  have hraise : exec i s = .next (s.raise (.fieldElementTooLarge a)) ∨
      ∃ elems, exec i s = .next ((s.setDp (s.dp.acLoad elems)).raise (.fieldElementTooLarge a)) := by
    rcases hi with rfl | ⟨p, rfl, hd⟩ | ⟨b, rfl⟩ | ⟨p, b, rfl, hd⟩ | ⟨c, hc, rfl⟩ | ⟨p, c, hc, rfl, hd⟩ |
      ⟨p, good, rest, hgood, rfl, hd⟩
    · exact .inl (by rw [exec_hash1, State.runSingle_of_ge ha])
    · exact .inl (by rw [exec_poseidon1_of_decode hd, State.runSingle_of_ge ha])
    · exact .inl (by rw [exec_hash2, State.runPair_of_left_ge ha])
    · exact .inl (by rw [exec_poseidon2_of_decode hd, State.runPair_of_left_ge ha])
    · exact .inl (by rw [exec_hash2, State.runPair_of_right_ge hc ha])
    · exact .inl (by rw [exec_poseidon2_of_decode hd, State.runPair_of_right_ge hc ha])
    · exact .inr ⟨_, by rw [exec_poseidonN_of_decode hd, State.runArray_of_first_ge hgood ha]⟩
  rcases hraise with h | ⟨elems, h⟩ <;> exact ⟨_, h, rfl, rfl, rfl, rfl, rfl⟩

/-! ## The errors an operation raises, each with its cause (R114, R117, R118) -/

theorem single_error {x : Word} {e : Raised} (h : single x = .error e) :
    Config.P ≤ x.toNat ∧ e = .fieldElementTooLarge x := by
  rcases validate_cases x with ⟨hx, -⟩ | ⟨hx, -⟩
  · rw [single_of_lt hx] at h
    cases h
  · rw [single_of_ge hx] at h
    cases h
    exact ⟨hx, rfl⟩

theorem pair_error {a b : Word} {e : Raised} (h : pair a b = .error e) :
    ∃ x : Word, Config.P ≤ x.toNat ∧ e = .fieldElementTooLarge x := by
  rcases validate_cases a with ⟨ha, -⟩ | ⟨ha, -⟩
  · rcases validate_cases b with ⟨hb, -⟩ | ⟨hb, -⟩
    · rw [pair_of_lt ha hb] at h
      cases h
    · rw [pair_of_right_ge ha hb] at h
      cases h
      exact ⟨b, hb, rfl⟩
  · rw [pair_of_left_ge ha] at h
    cases h
    exact ⟨a, ha, rfl⟩

theorem hashArray_error {elems : List Word} {e : Raised} (h : hashArray elems = .error e) :
    (elems = [] ∧ e = .invalidInputLength 0) ∨
    ∃ x : Word, Config.P ≤ x.toNat ∧ e = .fieldElementTooLarge x := by
  cases elems with
  | nil =>
    cases h
    exact .inl ⟨rfl, rfl⟩
  | cons x xs =>
    rcases validateAll_cases (x :: xs) with ⟨hall, -⟩ | ⟨_, bad, _, -, -, hbad, hv⟩
    · rw [hashArray_of_valid x xs hall] at h
      cases h
    · rw [hashArray_of_invalid hv] at h
      cases h
      exact .inr ⟨bad, hbad, rfl⟩

/-- A call's error is that of its ABI decode or that of its operation on the decoded arguments (R101). -/
theorem bind_error_cases {α : Type} {decoded : Except Raised α} {run : α → Except Raised Nat} {e : Raised}
    (h : (decoded >>= run) = .error e) :
    decoded = .error e ∨ ∃ args, decoded = .ok args ∧ run args = .error e := by
  cases decoded with
  | error e' =>
    cases h
    exact .inl rfl
  | ok args => exact .inr ⟨args, rfl, h⟩

/-- Every error an operation can raise, with its cause; the selector is no matter of an operation (R112). -/
theorem outcome_error_cases {strict : Bool} {i : Instr} {e : Raised} (h : outcome strict i = .error e) :
    (∃ why, e = .abiDecodeError why) ∨
    (∃ x : Word, Config.P ≤ x.toNat ∧ e = .fieldElementTooLarge x) ∨
    (e = .invalidInputLength 0 ∧ ∃ p, i = .poseidonN p ∧ decodePN strict p = .ok []) := by
  cases i with
  | poseidon1 p =>
    rw [outcome_poseidon1] at h
    rcases bind_error_cases h with hd | ⟨x, -, hx⟩
    · exact .inl (decodeP1_error hd)
    · exact .inr (.inl ⟨x, single_error hx⟩)
  | poseidon2 p =>
    rw [outcome_poseidon2] at h
    rcases bind_error_cases h with hd | ⟨ab, -, hab⟩
    · exact .inl (decodeP2_error hd)
    · exact .inr (.inl (pair_error hab))
  | poseidonN p =>
    rw [outcome_poseidonN] at h
    rcases bind_error_cases h with hd | ⟨elems, hd, helems⟩
    · exact .inl (decodePN_error hd)
    · rcases hashArray_error helems with ⟨rfl, he⟩ | hlarge
      · exact .inr (.inr ⟨he, p, rfl, hd⟩)
      · exact .inr (.inl hlarge)
  | hash1 a => exact .inr (.inl ⟨a, single_error h⟩)
  | hash2 a b => exact .inr (.inl (pair_error h))

/-! ## What the status says of the outcome (R115) -/

/-- A status other than that of success is the code of the error that the response encodes. -/
theorem Response.Encodes.error_of_status {p : Response} {o : Except Raised Nat} {c : BitVec 3} (hp : p.Encodes o)
    (hstatus : p.status = c) (hc : c ≠ statusOk) : ∃ e, o = .error e ∧ e.code = c := by
  cases o with
  | ok v => exact absurd (hstatus.symm.trans hp.1) hc
  | error e => exact ⟨e, rfl, hp.1.symm.trans hstatus⟩

theorem Raised.code_eq_one_iff (e : Raised) : e.code = 1 ↔ e = .invalidSelector := by
  cases e <;> simp [Raised.code]

theorem Raised.code_eq_four_iff (e : Raised) : e.code = 4 ↔ ∃ n, e = .invalidInputLength n := by
  cases e <;> simp [Raised.code]

/-- Settles O35: the empty array is loaded and raised; conversely status 4 is that of an `InvalidInputLength`, which
only an empty array is the cause of. -/
theorem emptyArrayIsReported : Obligations.EmptyArrayIsReported := by
  unfold Obligations.EmptyArrayIsReported
  refine ⟨fun p s hd => ?_, fun i s t hexec hstatus => ?_⟩
  · exact ⟨_, (exec_poseidonN_of_decode hd s).trans (congrArg _ s.runArray_nil), rfl, rfl, rfl, rfl, rfl⟩
  · obtain ⟨e, ho, hcode⟩ := (exec_encodes hexec).error_of_status hstatus (by decide)
    obtain ⟨n, rfl⟩ := e.code_eq_four_iff.mp hcode
    rcases outcome_error_cases ho with ⟨_, he⟩ | ⟨_, -, he⟩ | ⟨-, hcause⟩
    · cases he
    · cases he
    · exact hcause

/-! ## The selector's error (R113) -/

/-- The selector stage rejects a CALL whose buffer has no selector or one that is none of the three (R97). -/
theorem decodeCall_rejects_iff (buf : Memory) :
    (decodeCall buf = .reject .bufferTooShort ∨ decodeCall buf = .reject .unknownSelector) ↔
      buf.length < 4 ∨ be (memRead buf 0 4) ∉ [Config.selPoseidon1, Config.selPoseidon2, Config.selPoseidonN] := by
  unfold decodeCall
  split_ifs with hshort h₁ h₂ h₃
  · exact ⟨fun _ => .inl hshort, fun _ => .inl rfl⟩
  all_goals have hlong : ¬ buf.length < 4 := hshort
  · simp [hlong, h₁]
  · simp [hlong, h₂]
  · simp [hlong, h₃]
  · simp [h₁, h₂, h₃]

/-- A request is rejected for its selector exactly when it is a CALL that the selector stage rejects. -/
theorem decode_rejects_iff (r : Request) :
    (decode r = .reject .bufferTooShort ∨ decode r = .reject .unknownSelector) ↔
      r.cmd = 0#2 ∧
        (r.len < 4 ∨ be (memRead r.buf 0 4) ∉ [Config.selPoseidon1, Config.selPoseidon2, Config.selPoseidonN]) := by
  by_cases hcall : r.cmd = 0#2
  · rw [decode, if_pos hcall, decodeCall_rejects_iff]
    exact (and_iff_right hcall).symm
  · rw [decode, if_neg hcall]
    split_ifs <;> simp [hcall]

/-- Whatever `Respond` says of a request is the outcome of its instruction or the error of its selector (R107). -/
theorem respond_cases {strict : Bool} {r : Request} {o : Except Raised Nat} (h : respond strict r = some o) :
    (∃ i, decode r = .instr i ∧ o = outcome strict i) ∨
    ((decode r = .reject .bufferTooShort ∨ decode r = .reject .unknownSelector) ∧ o = .error .invalidSelector) := by
  cases hd : decode r with
  | instr i =>
    simp only [respond, hd] at h
    cases h
    exact .inl ⟨i, rfl, rfl⟩
  | reject why =>
    cases why with
    | bufferTooShort | unknownSelector =>
      simp only [respond, hd] at h
      cases h
      exact .inr ⟨by simp, rfl⟩
    | reservedCommand =>
      simp only [respond, hd] at h
      cases h

theorem outcome_ne_invalidSelector (strict : Bool) (i : Instr) : outcome strict i ≠ .error .invalidSelector := by
  intro h
  rcases outcome_error_cases h with ⟨_, he⟩ | ⟨_, -, he⟩ | ⟨he, -⟩ <;> cases he

/-- `Respond` says `InvalidSelector` of exactly the requests that are rejected for their selector. -/
theorem respond_invalidSelector_iff {strict : Bool} {r : Request} {o : Except Raised Nat}
    (h : respond strict r = some o) :
    o = .error .invalidSelector ↔ (decode r = .reject .bufferTooShort ∨ decode r = .reject .unknownSelector) := by
  rcases respond_cases h with ⟨i, hd, rfl⟩ | ⟨hd, rfl⟩
  · simp [hd, outcome_ne_invalidSelector]
  · exact ⟨fun _ => hd, fun _ => rfl⟩

/-- Status 1 is that of `InvalidSelector` and of no other outcome (R115). -/
theorem Response.Encodes.status_eq_one_iff {p : Response} {o : Except Raised Nat} (hp : p.Encodes o) :
    p.status = 1 ↔ o = .error .invalidSelector := by
  refine ⟨fun hstatus => ?_, ?_⟩
  · obtain ⟨e, rfl, hcode⟩ := hp.error_of_status hstatus (by decide)
    rw [e.code_eq_one_iff.mp hcode]
  · rintro rfl
    exact hp.1

/-- Settles O42: status 1 is the outcome `InvalidSelector`, which is that of a request rejected for its selector. -/
theorem invalidSelectorExactly : Obligations.InvalidSelectorExactly := by
  unfold Obligations.InvalidSelectorExactly
  intro s hs hcmd
  obtain ⟨t, hstep, -, -, o, hrespond, hencodes⟩ := hs.step_reaches_done hcmd
  refine ⟨t, hstep, ?_, fun hstatus => ?_⟩
  · exact hencodes.status_eq_one_iff.trans ((respond_invalidSelector_iff hrespond).trans (decode_rejects_iff s.req))
  · obtain rfl := hencodes.status_eq_one_iff.mp hstatus
    exact hencodes.2

/-! ## The closed taxonomy (R112, R115, R116) -/

/-- A reason code is one of the four of R114. -/
theorem AbiReason.code_mem (why : AbiReason) : (BitVec.ofNat 256 why.code).toNat ∈ [1, 2, 3, 4] := by
  cases why <;> decide

/-- Every answer of `Respond` is a field element or one of the four errors, with the information of R116. -/
theorem respond_taxonomy {strict : Bool} {r : Request} {o : Except Raised Nat} (h : respond strict r = some o) :
    (∃ v < Config.P, o = .ok v) ∨
    o = .error .invalidSelector ∨
    (∃ why, o = .error (.abiDecodeError why)) ∨
    (∃ x : Word, Config.P ≤ x.toNat ∧ o = .error (.fieldElementTooLarge x)) ∨
    o = .error (.invalidInputLength 0) := by
  rcases respond_cases h with ⟨i, -, rfl⟩ | ⟨-, rfl⟩
  · cases ho : outcome strict i with
    | ok v => exact .inl ⟨v, outcome_ok_lt ho, rfl⟩
    | error e =>
      rcases outcome_error_cases ho with ⟨why, rfl⟩ | ⟨x, hx, rfl⟩ | ⟨rfl, -⟩
      · exact .inr (.inr (.inl ⟨why, rfl⟩))
      · exact .inr (.inr (.inr (.inl ⟨x, hx, rfl⟩)))
      · exact .inr (.inr (.inr (.inr rfl)))
  · exact .inr (.inl rfl)

/-- The response word of a field element reads back as that element (R39, R111). -/
theorem be_be32_toExternal {v : Nat} (hv : v < Config.P) : be (be32 (toExternal v)).toList = v := by
  rw [be32_toList, be_beBytes_word, toNat_toExternal_of_lt hv]

/-- Settles O43: a computing step answers the latched request, and each kind of answer has its status and its
information. -/
theorem responsesAreInTheTaxonomy : Obligations.ResponsesAreInTheTaxonomy := by
  unfold Obligations.ResponsesAreInTheTaxonomy
  refine ⟨rfl, rfl, fun _ => rfl, fun _ => rfl, fun _ => rfl, fun s t hs hstep => ?_⟩
  obtain ⟨o, hrespond, hencodes⟩ := hs.step_answers hstep
  rcases respond_taxonomy hrespond with ⟨v, hv, rfl⟩ | rfl | ⟨why, rfl⟩ | ⟨x, hx, rfl⟩ | rfl
  · obtain ⟨hstatus, hword, hinfo⟩ := hencodes
    exact .inl ⟨hstatus, hinfo, by rwa [hword, be_be32_toExternal hv]⟩
  all_goals obtain ⟨hstatus, hinfo⟩ := hencodes
  · exact .inr (.inl ⟨hstatus, hinfo⟩)
  · exact .inr (.inr (.inl ⟨hstatus, hinfo ▸ why.code_mem⟩))
  · exact .inr (.inr (.inr (.inl ⟨hstatus, hinfo ▸ hx⟩)))
  · exact .inr (.inr (.inr (.inr ⟨hstatus, hinfo⟩)))

/-! ## Copies of the block (R14, R129) -/

/-- Everything a step of one copy can be: that copy's own step, put back in its place. -/
theorem Platform.stepAt_eq_some_iff {p q : Platform} {k : Nat} :
    p.stepAt k = some q ↔ ∃ s t, p.blocks[k]? = some s ∧ step s = .next t ∧ q = ⟨p.blocks.set k t⟩ := by
  cases hk : p.blocks[k]? with
  | none => simp [Platform.stepAt, hk]
  | some s => cases hs : step s <;> simp [Platform.stepAt, hk, hs, eq_comm]

/-- Settles O58: a step reads and replaces its own copy, and replacements of two copies commute. -/
theorem copiesDoNotInterfere : Obligations.CopiesDoNotInterfere := by
  unfold Obligations.CopiesDoNotInterfere
  intro p q j k hj hjk
  obtain ⟨s, t, hs, hstep, rfl⟩ := Platform.stepAt_eq_some_iff.mp hj
  have hlt : j < p.blocks.length := (List.getElem?_eq_some_iff.mp hs).1
  refine ⟨⟨s, t, hs, hstep, List.getElem?_set_self hlt⟩, List.getElem?_set_ne hjk, fun r hk => ?_⟩
  obtain ⟨s', t', hs', hstep', rfl⟩ := Platform.stepAt_eq_some_iff.mp hk
  refine ⟨⟨(p.blocks.set j t).set k t'⟩, ?_, ?_⟩
  · exact Platform.stepAt_eq_some_iff.mpr ⟨s', t', (List.getElem?_set_ne hjk).trans hs', hstep', rfl⟩
  · exact Platform.stepAt_eq_some_iff.mpr
      ⟨s, t, (List.getElem?_set_ne hjk.symm).trans hs, hstep, congrArg _ (List.set_comm t t' hjk)⟩

end Sys2Proof.Machine

/-! PROOFS. Encoding and decoding (R51 to R64): the selector stage inverts the encoder of the calls, the canonical
payloads decode to their arguments, and the rows of the opcode table select exactly the keys of the requests that decode
to their instructions. -/

namespace Sys2Proof.Machine

/-! ## The selector stage reads the encoder back (R51, R97) -/

/-- The first four bytes of an encoded call are its selector. -/
theorem be_memRead_selector {sel : Nat} (hsel : sel < 2 ^ 32) (payload : List Byte) :
    be (memRead (beBytes 4 sel ++ payload) 0 4) = sel := by
  have hread : memRead (beBytes 4 sel ++ payload) 0 4 = beBytes 4 sel := by
    simpa only [beBytes_length] using memRead_append_left (beBytes 4 sel) payload
  rw [hread, be_beBytes]
  exact Nat.mod_eq_of_lt hsel

/-- A buffer with four selector bytes is the encoding of its selector and its payload. -/
theorem beBytes_selector_append_drop {buf : Memory} {sel : Nat} (hlen : ¬ buf.length < 4)
    (hsel : be (memRead buf 0 4) = sel) : beBytes 4 sel ++ buf.drop 4 = buf := by
  have hread : (memRead buf 0 4).length = 4 := memRead_length buf 0 4 (by omega)
  have hlt : sel < 256 ^ 4 := hsel ▸ be_memRead_lt buf 0 4
  have hbytes : beBytes 4 sel = memRead buf 0 4 :=
    be_injective (by rw [beBytes_length, hread]) (by rw [be_beBytes, Nat.mod_eq_of_lt hlt, hsel])
  rw [hbytes]
  exact List.take_append_drop 4 buf

/-- A call buffer that decodes is the buffer of its instruction's encoding (R51). -/
theorem encode_of_decodeCall {buf : Memory} {i : Instr} (h : decodeCall buf = .instr i) :
    encode i = callRequest buf := by
  unfold decodeCall at h
  split_ifs at h with hlen h₁ h₂ h₃ <;> cases h
  · exact congrArg callRequest (beBytes_selector_append_drop hlen h₁)
  · exact congrArg callRequest (beBytes_selector_append_drop hlen h₂)
  · exact congrArg callRequest (beBytes_selector_append_drop hlen h₃)

/-- Command 0 is decoded by its selector stage alone (R56). -/
theorem decode_of_cmd_call {r : Request} (hcmd : r.cmd = 0#2) : decode r = decodeCall r.buf := if_pos hcmd

/-- What a call of four selector bytes and a payload decodes to, selector by selector (R97). -/
theorem decode_selector_append {sel : Nat} (hsel : sel < 2 ^ 32) (payload : List Byte) :
    decode (callRequest (beBytes 4 sel ++ payload)) =
      if sel = Config.selPoseidon1 then .instr (.poseidon1 payload)
      else if sel = Config.selPoseidon2 then .instr (.poseidon2 payload)
      else if sel = Config.selPoseidonN then .instr (.poseidonN payload)
      else .reject .unknownSelector := by
  simp [decode_of_cmd_call, callRequest, decodeCall, Config.selectorBytes, be_memRead_selector hsel]

theorem decode_encode (i : Instr) : decode (encode i) = .instr i := by
  cases i with
  | poseidon1 payload => rw [encode, decode_selector_append (by decide), if_pos rfl]
  | poseidon2 payload => rw [encode, decode_selector_append (by decide), if_neg (by decide), if_pos rfl]
  | poseidonN payload =>
    rw [encode, decode_selector_append (by decide), if_neg (by decide), if_neg (by decide), if_pos rfl]
  | hash1 a => exact decode_of_cmd_hash1 rfl
  | hash2 a b => exact decode_of_cmd_hash2 rfl

/-- Settles O2: the selector stage finds the selector that the encoder wrote, and the payload behind it. -/
theorem decodeOfEncode : Obligations.DecodeOfEncode := decode_encode

/-- Settles O3: by the command; the buffer of a call is the encoder's, and the operands of a direct command are those
of its instruction. -/
theorem encodeOfDecode : Obligations.EncodeOfDecode := by
  unfold Obligations.EncodeOfDecode
  intro r i h
  by_cases hcall : r.cmd = 0#2
  · have hencode := encode_of_decodeCall ((decode_of_cmd_call hcall).symm.trans h)
    rw [hencode]
    simp [callRequest, hcall]
  by_cases hhash1 : r.cmd = 1#2
  · cases (decode_of_cmd_hash1 hhash1).symm.trans h
    simp [encode, hhash1]
  by_cases hhash2 : r.cmd = 2#2
  · cases (decode_of_cmd_hash2 hhash2).symm.trans h
    simp [encode, hhash2]
  · have hreserved : r.cmd = 3#2 := by bv_omega
    cases ((decode_eq_reserved_iff r).mpr hreserved).symm.trans h

/-! ## Request texts (R52, R53, R64) -/

/-- A CALL of any bytes decodes to the instruction whose encoding these bytes are, and to no other. -/
theorem decode_callRequest_iff (bytes : List Byte) (i : Instr) :
    decode (callRequest bytes) = .instr i ↔ encode i = callRequest bytes := by
  constructor
  · exact fun h => encode_of_decodeCall h
  · exact fun h => h ▸ decode_encode i

/-- Settles O4: a text is assembled by the encoder, which the decoder inverts, from a canonical payload, which the ABI
decode inverts in both modes. -/
theorem requestTextsKeepArguments : Obligations.RequestTextsKeepArguments := by
  unfold Obligations.RequestTextsKeepArguments
  intro strict
  refine ⟨fun x => ?_, fun a b => ?_, fun elems hlen => ?_, fun a => ?_, fun a b => ?_, fun bytes => ?_⟩
  · exact ⟨abiEncode1 x, decode_encode _, decodeP1_abiEncode1 strict x⟩
  · exact ⟨abiEncode2 a b, decode_encode _, decodeP2_abiEncode2 strict a b⟩
  · exact ⟨abiEncodeN elems, decode_encode _, decodePN_abiEncodeN strict hlen⟩
  · exact decode_encode (.hash1 a)
  · exact decode_encode (.hash2 a b)
  · exact ⟨rfl, rfl, decode_callRequest_iff bytes⟩

/-! ## The opcode table (R56) -/

section
variable {cmd : BitVec 2} {sel : Nat} {mnemonic : String}

/-- A key is its 2 command bits over its 32 selector bits. -/
theorem key_eq_mul_add (hsel : sel < 2 ^ 32) : cmd.toNat <<< 32 ||| sel = cmd.toNat * 2 ^ 32 + sel := by
  rw [← Nat.shiftLeft_add_eq_or_of_lt hsel, Nat.shiftLeft_eq]

/-- The mask of a call's row covers the whole key. -/
theorem callRow_selects_iff {value : Nat} (hsel : sel < 2 ^ 32) :
    OpRow.selects ⟨mnemonic, value, 0x3ffffffff⟩ (cmd.toNat <<< 32 ||| sel) = true ↔
      cmd.toNat * 2 ^ 32 + sel = value := by
  have hcmd := cmd.isLt
  have hmask : (cmd.toNat * 2 ^ 32 + sel) &&& 2 ^ 34 - 1 = cmd.toNat * 2 ^ 32 + sel := by
    rw [Nat.and_two_pow_sub_one_eq_mod]
    exact Nat.mod_eq_of_lt (by omega)
  rw [key_eq_mul_add hsel, OpRow.selects, beq_iff_eq]
  exact (congrArg (· = value) hmask).to_iff

/-- The mask of a direct command's row covers the command bits alone: the selector bits lie below it. -/
theorem directRow_selects_iff {direct : BitVec 2} (hsel : sel < 2 ^ 32) :
    OpRow.selects ⟨mnemonic, direct.toNat <<< 32, 0x300000000⟩ (cmd.toNat <<< 32 ||| sel) = true ↔ cmd = direct := by
  have hcmd := cmd.isLt
  have hlow : sel &&& 3 <<< 32 = 0 := by
    rw [← Nat.mod_eq_of_lt hsel, ← Nat.and_two_pow_sub_one_eq_mod, Nat.and_assoc]
    simp
  have hmask : (cmd.toNat <<< 32 ||| sel) &&& 3 <<< 32 = cmd.toNat <<< 32 := by
    rw [Nat.and_or_distrib_right, hlow, Nat.or_zero, ← Nat.shiftLeft_and_distrib,
      Nat.and_two_pow_sub_one_eq_mod cmd.toNat 2, Nat.mod_eq_of_lt hcmd]
  rw [OpRow.selects, beq_iff_eq]
  refine (congrArg (· = direct.toNat <<< 32) hmask).to_iff.trans ?_
  rw [Nat.shiftLeft_eq, Nat.shiftLeft_eq, Nat.mul_left_inj (by decide), BitVec.toNat_inj]

end
/-- The requests without a key are the ones rejected for a buffer without a selector. -/
theorem key?_eq_none_iff (r : Request) : r.key? = none ↔ decode r = .reject .bufferTooShort := by
  unfold Request.key? decode decodeCall Request.len Memory.len
  split_ifs <;> simp_all

theorem Request.key_eq {r : Request} {key : Nat} (hkey : r.key? = some key) :
    key = r.cmd.toNat <<< 32 ||| be (memRead r.buf 0 4) := by
  unfold Request.key? at hkey
  split_ifs at hkey
  exact (Option.some.inj hkey).symm

/-- A call's key is read from its buffer alone. -/
theorem callRequest_key? {r : Request} (hcall : r.cmd = 0#2) : (callRequest r.buf).key? = r.key? := by
  simp [Request.key?, callRequest, Request.len, hcall]

/-- Every instruction's row is one of the table's and selects the key of its encoding. -/
theorem row_selects_encode (i : Instr) : Laws.TableKey.Statement i := by
  cases i with
  | poseidon1 payload => exact Laws.TableKey.poseidon1 payload
  | poseidon2 payload => exact Laws.TableKey.poseidon2 payload
  | poseidonN payload => exact Laws.TableKey.poseidonN payload
  | hash1 a => exact Laws.TableKey.hash1 a
  | hash2 a b => exact Laws.TableKey.hash2 a b

/-- The row of the instruction a request decodes to selects the request's key: a call's key is that of its encoding, a
direct command's row looks at the command alone. -/
theorem row_selects_of_decode {r : Request} {i : Instr} {key : Nat} (hkey : r.key? = some key)
    (h : decode r = .instr i) : i.row.selects key = true := by
  by_cases hcall : r.cmd = 0#2
  · obtain ⟨-, key', hkey', hselects⟩ := row_selects_encode i
    rw [encode_of_decodeCall ((decode_of_cmd_call hcall).symm.trans h), callRequest_key? hcall, hkey] at hkey'
    cases hkey'
    exact hselects
  have hsel : be (memRead r.buf 0 4) < 2 ^ 32 := be_memRead_lt r.buf 0 4
  rw [Request.key_eq hkey]
  by_cases hhash1 : r.cmd = 1#2
  · cases (decode_of_cmd_hash1 hhash1).symm.trans h
    exact (directRow_selects_iff (direct := 1#2) hsel).mpr hhash1
  by_cases hhash2 : r.cmd = 2#2
  · cases (decode_of_cmd_hash2 hhash2).symm.trans h
    exact (directRow_selects_iff (direct := 2#2) hsel).mpr hhash2
  · have hreserved : r.cmd = 3#2 := by bv_omega
    cases ((decode_eq_reserved_iff r).mpr hreserved).symm.trans h

/-- A call's row selects the calls whose buffer begins with its selector. -/
theorem decode_of_callRow_selects {mnemonic : String} {value key : Nat} {r : Request} (hkey : r.key? = some key)
    (hvalue : value < 2 ^ 32) (h : OpRow.selects ⟨mnemonic, value, 0x3ffffffff⟩ key = true) :
    decode r = decode (callRequest (beBytes 4 value ++ r.buf.drop 4)) := by
  have hsel : be (memRead r.buf 0 4) < 2 ^ 32 := be_memRead_lt r.buf 0 4
  rw [Request.key_eq hkey, callRow_selects_iff hsel] at h
  have hcall : r.cmd = 0#2 := by bv_omega
  have hlen : ¬ r.buf.length < 4 := fun hshort => by
    simp [Request.key?, Request.len, Memory.len, Config.selectorBytes, hcall, hshort] at hkey
  rw [beBytes_selector_append_drop hlen (by simpa [hcall] using h)]
  exact decode_of_cmd_call hcall

/-- A row of the table that selects a request's key is the row of the instruction the request decodes to. -/
theorem decode_of_row_selects {r : Request} {row : OpRow} {key : Nat} (hkey : r.key? = some key)
    (hrow : row ∈ opTable) (h : row.selects key = true) : ∃ i, decode r = .instr i ∧ i.row = row := by
  have hdirect {mnemonic : String} {direct : BitVec 2}
      (h : OpRow.selects ⟨mnemonic, direct.toNat <<< 32, 0x300000000⟩ key = true) : r.cmd = direct :=
    (directRow_selects_iff (be_memRead_lt r.buf 0 4)).mp (Request.key_eq hkey ▸ h)
  simp only [opTable, List.mem_cons, List.not_mem_nil, or_false] at hrow
  rcases hrow with rfl | rfl | rfl | rfl | rfl
  · exact ⟨_, (decode_of_callRow_selects hkey (by decide) h).trans (decode_encode (.poseidon1 _)), rfl⟩
  · exact ⟨_, (decode_of_callRow_selects hkey (by decide) h).trans (decode_encode (.poseidon2 _)), rfl⟩
  · exact ⟨_, (decode_of_callRow_selects hkey (by decide) h).trans (decode_encode (.poseidonN _)), rfl⟩
  · exact ⟨_, decode_of_cmd_hash1 (hdirect (direct := 1#2) h), rfl⟩
  · exact ⟨_, decode_of_cmd_hash2 (hdirect (direct := 2#2) h), rfl⟩

/-- Settles O5: rows and decoded instructions select each other; what decodes to no instruction is rejected by its
command, its length or its selector. -/
theorem decodeFollowsTheTable : Obligations.DecodeFollowsTheTable := by
  unfold Obligations.DecodeFollowsTheTable
  refine ⟨fun r key hkey => ⟨fun i h => ?_, fun row hrow h => ?_, fun hcall hnone => ?_, fun hcmd => ?_⟩,
    fun r => (key?_eq_none_iff r).mp⟩
  · exact ⟨(row_selects_encode i).1, row_selects_of_decode hkey h⟩
  · exact decode_of_row_selects hkey hrow h
  · cases hd : decode r with
    | instr i =>
      have hselects := row_selects_of_decode hkey hd
      rw [hnone i.row (row_selects_encode i).1] at hselects
      cases hselects
    | reject why =>
      cases why with
      | bufferTooShort => cases hkey.symm.trans ((key?_eq_none_iff r).mpr hd)
      | unknownSelector => rfl
      | reservedCommand => cases hcall.symm.trans ((decode_eq_reserved_iff r).mp hd)
  · exact (decode_eq_reserved_iff r).mpr hcmd

/-- Settles O1: by evaluation of the five table words. -/
theorem tableWordsDecode : Obligations.TableWordsDecode := by
  unfold Obligations.TableWordsDecode
  decide

/-! ## The hardwired constants (R6 to R11, R58, R59) -/

/-- Settles O59: closed numbers, but that `MAX_CALLDATA` is 68 and something more (R11). -/
theorem hardwiredConstants : Obligations.HardwiredConstants := by
  unfold Obligations.HardwiredConstants
  refine ⟨rfl, by decide, by decide, rfl, rfl, ?_, ?_⟩
  · exact Nat.le_add_right Config.minMaxCalldata Config.maxCalldataExtra
  · decide

/-! ## The bytes of the response word (R39, R111) -/

/-- Byte `j` of an `n`-byte encoding is the number shifted down to the byte's place. -/
theorem beBytes_getElem {n j : Nat} (v : Nat) (hj : j < (beBytes n v).length) :
    (beBytes n v)[j] = BitVec.ofNat 8 (v / 256 ^ (n - 1 - j)) := by
  induction n generalizing j with
  | zero => simp [beBytes] at hj
  | succ n ih =>
    cases j with
    | zero => simp [beBytes]
    | succ j =>
      have hsub : n + 1 - 1 - (j + 1) = n - 1 - j := by omega
      simp only [beBytes, List.getElem_cons_succ, ih, hsub]

theorem be32_getElem (v : Word) {j : Nat} (hj : j < 32) :
    (be32 v)[j] = BitVec.ofNat 8 (v.toNat / 256 ^ (31 - j)) :=
  beBytes_getElem v.toNat (by simpa using hj)

/-- Settles O8: the number of the bytes is the word, byte `j` is a division by a power of 256, and the first byte of a
field element is at most that of `P`. -/
theorem resultWordIsBigEndian : Obligations.ResultWordIsBigEndian := by
  unfold Obligations.ResultWordIsBigEndian
  refine fun v => ⟨be_beBytes_word v, fun j => ?_, fun hv => ?_⟩
  · apply BitVec.eq_of_toNat_eq
    rw [Fin.getElem_fin, be32_getElem v j.isLt, BitVec.toNat_ofNat, BitVec.extractLsb'_toNat,
      Nat.shiftRight_eq_div_pow, Nat.pow_mul]
  · have hfirst : v.toNat / 256 ^ 31 ≤ 0x30 :=
      calc v.toNat / 256 ^ 31
        _ ≤ Config.P / 256 ^ 31 := Nat.div_le_div_right hv.le
        _ = 0x30 := by decide
    rw [be32_getElem v (by decide), BitVec.toNat_ofNat]
    exact (Nat.mod_le _ _).trans hfirst

end Sys2Proof.Machine

/-! PROOFS. The five operations (R102 to R106, R141): a valid argument completes with the hash of its unit, a direct
command is its canonical call, and what an operation's unit does not write stays as it was. -/

namespace Sys2Proof.Machine

/-! ## Completion (R71, R83, R89) -/

theorem State.runSingle_completes {x : Word} (hx : x.toNat < Config.P) (s : State) :
    (s.runSingle x).phase = .done ∧ (s.runSingle x).rsp = ⟨0, be32 (toExternal (hashSingle x.toNat)), 0⟩ ∧
      (s.runSingle x).dp.pe.x = x ∧ (s.runSingle x).dp.pe.result = toExternal (hashSingle x.toNat) ∧
      (s.runSingle x).dp.pe.i = 8 := by
  rcases State.runSingle_cases x s with ⟨-, t, h⟩ | ⟨hge, -⟩
  · rw [h]
    exact ⟨rfl, rfl, rfl, rfl, rfl⟩
  · exact absurd hx hge.not_gt

theorem State.runPair_completes {a b : Word} (ha : a.toNat < Config.P) (hb : b.toNat < Config.P) (s : State) :
    (s.runPair a b).phase = .done ∧
      (s.runPair a b).rsp = ⟨0, be32 (toExternal (hashPair a.toNat b.toNat)), 0⟩ ∧
      (s.runPair a b).dp.pm = ⟨a, b, toExternal (hashSingle ((a.toNat + b.toNat + 1) % Config.P)), .pmIdle⟩ ∧
      (s.runPair a b).dp.pe.result = toExternal (hashPair a.toNat b.toNat) ∧ (s.runPair a b).dp.pe.i = 8 := by
  rcases State.runPair_cases a b s with ⟨-, -, x, t, h⟩ | ⟨hge, -⟩ | ⟨-, hge, -⟩
  · rw [h]
    exact ⟨rfl, rfl, rfl, rfl, rfl⟩
  · exact absurd ha hge.not_gt
  · exact absurd hb hge.not_gt

theorem State.runArray_completes {e : Word} {es : List Word} (hvalid : ∀ x ∈ e :: es, x.toNat < Config.P) (s : State) :
    (s.runArray (e :: es)).phase = .done ∧
      (s.runArray (e :: es)).rsp = ⟨0, be32 (toExternal (foldPairs e.toNat es)), 0⟩ ∧
      (s.runArray (e :: es)).dp.ac = ⟨e :: es, es.length + 1, toExternal (foldPairs e.toNat es)⟩ := by
  rcases State.runArray_cases (e :: es) s with
    ⟨hnil, -⟩ | ⟨good, bad, rest, hsplit, -, hbad, -⟩ | ⟨_, _, pe, pm, hcons, -, h, -, -⟩
  · cases hnil
  · exact absurd (hvalid bad (by simp [hsplit])) hbad.not_gt
  · cases hcons
    rw [h]
    exact ⟨rfl, rfl, rfl⟩

/-- Settles O25: the payload decodes, so the call is the single hash of its word. -/
theorem poseidon1Completes : Obligations.Poseidon1Completes := by
  unfold Obligations.Poseidon1Completes
  exact fun p x s hd hx => ⟨_, exec_poseidon1_of_decode hd s, s.runSingle_completes hx⟩

/-- Settles O26: the payload decodes, so the call is the pair hash of its words. -/
theorem poseidon2Completes : Obligations.Poseidon2Completes := by
  unfold Obligations.Poseidon2Completes
  exact fun p a b s hd ha hb => ⟨_, exec_poseidon2_of_decode hd s, s.runPair_completes ha hb⟩

/-- Settles O27: the payload decodes, so the call is the fold over its elements. -/
theorem poseidonNCompletes : Obligations.PoseidonNCompletes := by
  unfold Obligations.PoseidonNCompletes
  exact fun p e es s hd hvalid => ⟨_, exec_poseidonN_of_decode hd s, s.runArray_completes hvalid⟩

/-- Settles O28: `HASH1` is the single hash of its operand. -/
theorem hash1Completes : Obligations.Hash1Completes := by
  unfold Obligations.Hash1Completes
  exact fun a s ha => ⟨_, exec_hash1 a s, s.runSingle_completes ha⟩

/-- Settles O29: `HASH2` is the pair hash of its operands. -/
theorem hash2Completes : Obligations.Hash2Completes := by
  unfold Obligations.Hash2Completes
  exact fun a b s ha hb => ⟨_, exec_hash2 a b s, s.runPair_completes ha hb⟩

/-! ## The direct commands are the canonical calls (R105, R106) -/

/-- Settles O32: the canonical payload decodes to the operands in both modes, so both sides are one run. -/
theorem directCommandsAgreeWithCalls : Obligations.DirectCommandsAgreeWithCalls := by
  unfold Obligations.DirectCommandsAgreeWithCalls
  refine ⟨fun a s => ?_, fun a b s => ?_⟩
  · exact (exec_hash1 a s).trans (exec_poseidon1_abiEncode1 a s).symm
  · exact (exec_hash2 a b s).trans (exec_poseidon2_of_decode (decodeP2_abiEncode2 Config.abiStrict a b) s).symm

/-! ## What every operation leaves unchanged -/

/-- The end of a transaction writes the phase, the response, the working registers and the draw counter alone. -/
theorem State.EndsIn.frame {s t : State} (h : s.EndsIn t) :
    t.req = s.req ∧ t.rstHeld = s.rstHeld ∧ t.busyLeft = s.busyLeft ∧ t.host = s.host ∧ t.observed = s.observed := by
  obtain ⟨d, ⟨v, rfl⟩ | ⟨e, rfl⟩⟩ := h <;> exact ⟨rfl, rfl, rfl, rfl, rfl⟩

theorem State.raise_status_ne_zero (e : Raised) (s : State) : (s.raise e).rsp.status ≠ 0 := e.code_ne_statusOk

/-- A free value is drawn for the word of a failure only (R107). -/
theorem State.EndsIn.draws_of_ok {s t : State} (h : s.EndsIn t) (hok : t.rsp.status = 0) : t.draws = s.draws := by
  obtain ⟨d, ⟨v, rfl⟩ | ⟨e, rfl⟩⟩ := h
  · rfl
  · exact absurd hok (State.raise_status_ne_zero e _)

theorem endsIn_of_exec {i : Instr} {s t : State} (h : exec i s = .next t) : s.EndsIn t := by
  obtain ⟨u, hu, hends⟩ := exec_endsIn i s
  cases hu.symm.trans h
  exact hends

/-- Settles O37: an operation ends its transaction, which writes neither the request nor anything of the host's. -/
theorem everyOperationFrame : Obligations.EveryOperationFrame := by
  unfold Obligations.EveryOperationFrame
  intro i s t h
  have hends := endsIn_of_exec h
  obtain ⟨hreq, hheld, hleft, hhost, hobserved⟩ := hends.frame
  exact ⟨hreq, fun a => by rw [hreq], hheld, hleft, hhost, hobserved, hends.phase, hends.draws_of_ok⟩

/-! ## What each operation's units write (R84, R92, R102 to R106) -/

/-- A call's decode error is raised from the state itself; otherwise the operation runs on the decoded arguments. -/
theorem State.afterDecode_cases {α : Type} {decoded : Except Raised α} {run : α → State → State} {s t : State}
    (h : Host.Outcome.next (φ := Fault) (ρ := Refusal) (s.afterDecode decoded run) = .next t) :
    (∃ e, decoded = .error e ∧ t = s.raise e) ∨ ∃ args, decoded = .ok args ∧ t = run args s := by
  cases h
  cases decoded with
  | error e => exact .inl ⟨e, rfl, rfl⟩
  | ok args => exact .inr ⟨args, rfl, rfl⟩

/-- `t` ends a single hash on `s`: one run of the engine, or an error with no unit run. -/
def State.EndsSingle (s t : State) : Prop :=
  (∃ pe v, t = (s.setDp { s.dp with pe := pe, work := s.dp.work.plus 1 0 }).complete v) ∨ ∃ e, t = s.raise e

/-- `t` ends a pair hash on `s`: one run of the mixer, which returns to idle, or an error with no unit run. -/
def State.EndsPair (s t : State) : Prop :=
  (∃ pe pm v, pm.phase = .pmIdle ∧
    t = (s.setDp { s.dp with pe := pe, pm := pm, work := s.dp.work.plus 2 2 }).complete v) ∨
  ∃ e, t = s.raise e

theorem State.endsSingle_runSingle (x : Word) (s : State) : s.EndsSingle (s.runSingle x) := by
  rcases State.runSingle_cases x s with ⟨-, t, h⟩ | ⟨-, h⟩
  · exact .inl ⟨_, _, h⟩
  · exact .inr ⟨_, h⟩

theorem State.endsPair_runPair (a b : Word) (s : State) : s.EndsPair (s.runPair a b) := by
  rcases State.runPair_cases a b s with ⟨-, -, x, t, h⟩ | ⟨-, h⟩ | ⟨-, -, h⟩
  · exact .inl ⟨_, _, _, rfl, h⟩
  · exact .inr ⟨_, h⟩
  · exact .inr ⟨_, h⟩

theorem endsSingle_of_exec {i : Instr} {s t : State} (hi : (∃ p, i = .poseidon1 p) ∨ (∃ a, i = .hash1 a))
    (h : exec i s = .next t) : s.EndsSingle t := by
  rcases hi with ⟨p, rfl⟩ | ⟨a, rfl⟩
  · rcases State.afterDecode_cases h with ⟨e, -, rfl⟩ | ⟨x, -, rfl⟩
    · exact .inr ⟨e, rfl⟩
    · exact s.endsSingle_runSingle x
  · cases h
    exact s.endsSingle_runSingle a

theorem endsPair_of_exec {i : Instr} {s t : State} (hi : (∃ p, i = .poseidon2 p) ∨ (∃ a b, i = .hash2 a b))
    (h : exec i s = .next t) : s.EndsPair t := by
  rcases hi with ⟨p, rfl⟩ | ⟨a, b, rfl⟩
  · rcases State.afterDecode_cases h with ⟨e, -, rfl⟩ | ⟨ab, -, rfl⟩
    · exact .inr ⟨e, rfl⟩
    · exact s.endsPair_runPair ab.1 ab.2
  · cases h
    exact s.endsPair_runPair a b

section
variable {s t : State}

theorem State.EndsSingle.work_of_ok (h : s.EndsSingle t) (hok : t.rsp.status = 0) : t.dp.work = s.dp.work.plus 1 0 := by
  rcases h with ⟨pe, v, rfl⟩ | ⟨e, rfl⟩
  · rfl
  · exact absurd hok (s.raise_status_ne_zero e)

theorem State.EndsPair.work_of_ok (h : s.EndsPair t) (hok : t.rsp.status = 0) : t.dp.work = s.dp.work.plus 2 2 := by
  rcases h with ⟨pe, pm, v, -, rfl⟩ | ⟨e, rfl⟩
  · rfl
  · exact absurd hok (s.raise_status_ne_zero e)

theorem State.EndsSingle.frame (h : s.EndsSingle t) : t.dp.pm = s.dp.pm ∧ t.dp.ac = s.dp.ac := by
  rcases h with ⟨pe, v, rfl⟩ | ⟨e, rfl⟩ <;> exact ⟨rfl, rfl⟩

theorem State.EndsPair.ac (h : s.EndsPair t) : t.dp.ac = s.dp.ac := by
  rcases h with ⟨pe, pm, v, -, rfl⟩ | ⟨e, rfl⟩ <;> rfl

theorem State.EndsSingle.dp_of_failed (h : s.EndsSingle t) (hfail : t.rsp.status ≠ 0) : t.dp = s.dp := by
  rcases h with ⟨pe, v, rfl⟩ | ⟨e, rfl⟩
  · exact absurd rfl hfail
  · rfl

theorem State.EndsPair.dp_of_failed (h : s.EndsPair t) (hfail : t.rsp.status ≠ 0) : t.dp = s.dp := by
  rcases h with ⟨pe, pm, v, -, rfl⟩ | ⟨e, rfl⟩
  · exact absurd rfl hfail
  · rfl

end

/-- An array hash completes with `ac.n` elements folded, or fails with nothing but its elements loaded and with another
status than that of a decode error. -/
theorem State.runArray_ends (elems : List Word) (s : State) :
    (∃ pe pm k acc v, (pm = s.dp.pm ∨ pm.phase = .pmIdle) ∧
      s.runArray elems = (s.setDp ⟨pe, pm, ⟨elems, k, acc⟩,
        s.dp.work.plus (2 * (elems.length - 1)) (2 * (elems.length - 1))⟩).complete v) ∨
    ∃ e, e.code ≠ 2 ∧ s.runArray elems = (s.setDp (s.dp.acLoad elems)).raise e := by
  rcases State.runArray_cases elems s with
    ⟨rfl, h⟩ | ⟨_, bad, _, -, -, -, h⟩ | ⟨e, es, pe, pm, rfl, -, h, hnil, hcons⟩
  · exact .inr ⟨_, by simp [Raised.code], h⟩
  · exact .inr ⟨_, by simp [Raised.code], h⟩
  · refine .inl ⟨pe, pm, _, _, _, ?_, h⟩
    by_cases hes : es = []
    · exact .inl (hnil hes).2
    · exact .inr (hcons hes)

/-- Settles O36: each shape of operation counts the work of its units, and a failure has another status. -/
theorem workPerOperation : Obligations.WorkPerOperation := by
  unfold Obligations.WorkPerOperation
  intro i s t h hok
  cases i with
  | poseidon1 p => exact ⟨1, 0, (endsSingle_of_exec (.inl ⟨p, rfl⟩) h).work_of_ok hok, rfl, rfl⟩
  | hash1 a => exact ⟨1, 0, (endsSingle_of_exec (.inr ⟨a, rfl⟩) h).work_of_ok hok, rfl, rfl⟩
  | poseidon2 p => exact ⟨2, 2, (endsPair_of_exec (.inl ⟨p, rfl⟩) h).work_of_ok hok, rfl, rfl⟩
  | hash2 a b => exact ⟨2, 2, (endsPair_of_exec (.inr ⟨a, b, rfl⟩) h).work_of_ok hok, rfl, rfl⟩
  | poseidonN p =>
    rcases State.afterDecode_cases h with ⟨e, -, rfl⟩ | ⟨elems, -, rfl⟩
    · exact absurd hok (s.raise_status_ne_zero e)
    rcases s.runArray_ends elems with ⟨pe, pm, k, acc, v, -, hend⟩ | ⟨e, -, hend⟩ <;> rw [hend] at hok ⊢
    · exact ⟨_, _, rfl, rfl, rfl⟩
    · exact absurd hok (State.raise_status_ne_zero e _)

/-- Settles O38: a completed single hash replaces the engine's registers, and an error writes no working register. -/
theorem singleOperationsFrame : Obligations.SingleOperationsFrame := by
  unfold Obligations.SingleOperationsFrame
  intro i s t hi h
  have hends := endsSingle_of_exec hi h
  exact ⟨hends.frame.1, hends.frame.2, hends.dp_of_failed⟩

/-- Settles O39: a completed pair hash replaces the mixer's and the engine's registers, and an error writes no working
register. -/
theorem pairOperationsFrame : Obligations.PairOperationsFrame := by
  unfold Obligations.PairOperationsFrame
  intro i s t hi h
  have hends := endsPair_of_exec hi h
  exact ⟨hends.ac, hends.dp_of_failed⟩

/-- Settles O40: a decode error writes no working register; later errors come after the loading of the elements, with
other statuses. -/
theorem arrayOperationFrame : Obligations.ArrayOperationFrame := by
  unfold Obligations.ArrayOperationFrame
  intro p s t h hfail
  rcases State.afterDecode_cases h with ⟨e, hd, rfl⟩ | ⟨elems, hd, rfl⟩
  · refine ⟨rfl, rfl, rfl, rfl, rfl, fun _ => rfl, fun elems hok => ?_⟩
    cases hd.symm.trans hok
  rcases s.runArray_ends elems with ⟨pe, pm, k, acc, v, -, hend⟩ | ⟨e, hcode, hend⟩ <;> rw [hend] at hfail ⊢
  · exact absurd rfl hfail
  · refine ⟨rfl, rfl, rfl, rfl, rfl, fun hstatus => absurd hstatus hcode, fun elems' hok => ?_⟩
    cases hd.symm.trans hok
    rfl

end Sys2Proof.Machine

/-! PROOFS. One step of the block (R108 to R110, R131 to R139): reset comes first, then the phase selects what the step
does; and a whole transaction from its offer to its delivery. -/

namespace Sys2Proof.Machine

/-! ## The step by reset and by phase -/

/-- A step that reset touches takes the reset values and remembers the level of `rst` (R132). -/
theorem step_of_reset {s : State} (h : s.pins.rst = true ∨ s.rstHeld = true) :
    step s = .next (s.advance.enterReset s.pins.rst) := by
  unfold step
  cases hrst : s.pins.rst with
  | true => rfl
  | false =>
    have hheld : s.rstHeld = true := by simpa [hrst] using h
    simp [hheld]

section
variable {s : State}

/-- A step that no reset touches is the phase's. -/
theorem State.Running.step_eq (hrun : s.Running) : step s = stepPhase s.pins s.advance := by
  obtain ⟨hrst, hheld⟩ := hrun
  simp [step, hrst, hheld]

theorem step_of_idle (hrun : s.Running) (hphase : s.phase = .idle) :
    step s = if s.pins.reqValid then s.advance.accept s.pins else .next s.advance := by
  rw [hrun.step_eq, stepPhase, State.advance_phase, hphase]

theorem step_of_busy (hrun : s.Running) (hphase : s.phase = .busy) :
    step s = if s.busyLeft = 0 then compute s.advance else .next s.advance.stayBusy := by
  rw [hrun.step_eq, stepPhase, State.advance_phase, hphase, State.advance_busyLeft]

theorem step_of_done (hrun : s.Running) (hphase : s.phase = .done) :
    step s = .next (if s.pins.rspReady then s.advance.deliver else s.advance) := by
  rw [hrun.step_eq, stepPhase, State.advance_phase, hphase]

end

/-- Settles O41: the computing step computes the latched request, whose instruction is executed. -/
theorem stepRunsTheDecodedInstruction : Obligations.StepRunsTheDecodedInstruction := by
  unfold Obligations.StepRunsTheDecodedInstruction
  intro s i hs hd
  rw [hs.step_eq, compute, State.advance_req, hd]

/-! ## IDLE: accept, refuse or stay (R108, R131, R139) -/

/-- An idle block with a request on its port does what the accept step says. -/
theorem step_of_offer {s : State} (hrun : s.Running) (hphase : s.phase = .idle) (hvalid : s.pins.reqValid = true) :
    step s = s.advance.accept s.pins := by
  rw [step_of_idle hrun hphase, if_pos hvalid]

/-- A dutiful request is latched. -/
theorem step_of_dutiful_offer {s : State} (hrun : s.Running) (hphase : s.phase = .idle)
    (hvalid : s.pins.reqValid = true) (hdutiful : s.pins.Dutiful) :
    step s = .next (s.advance.latch s.pins.request) := by
  obtain ⟨hcmd, hlen, hbuf⟩ := hdutiful hvalid
  rw [step_of_offer hrun hphase hvalid, State.accept, if_neg hcmd, if_neg hlen.not_gt, if_neg (not_not.mpr hbuf)]

/-- Settles O46: the dutiful request is latched as it stands on the port. -/
theorem acceptLatchesThePort : Obligations.AcceptLatchesThePort := by
  unfold Obligations.AcceptLatchesThePort
  intro s hrun hphase hvalid hdutiful
  obtain ⟨-, -, hlen⟩ := hdutiful hvalid
  exact ⟨_, step_of_dutiful_offer hrun hphase hvalid hdutiful, rfl, rfl, hlen, fun _ => rfl, rfl, rfl, rfl, rfl⟩

/-- Settles O47: the accept step checks the command, then the length, then the buffer. -/
theorem undutifulRequestsAreRefused : Obligations.UndutifulRequestsAreRefused := by
  unfold Obligations.UndutifulRequestsAreRefused
  intro s hrun hphase hvalid
  rw [step_of_offer hrun hphase hvalid, State.accept]
  refine ⟨fun hcmd => ?_, fun hcmd hlong => ?_, fun hcmd hlen hbuf => ?_⟩
  · rw [if_pos hcmd]
  · rw [if_neg hcmd, if_pos hlong]
  · rw [if_neg hcmd, if_neg hlen.not_gt, if_pos hbuf]

/-- Settles O50: without a request the idle phase changes nothing, and the schedule moves on. -/
theorem idleBlockKeepsItsState : Obligations.IdleBlockKeepsItsState := by
  unfold Obligations.IdleBlockKeepsItsState
  refine ⟨fun s => beq_iff_eq, fun s hrun hphase hvalid => ?_⟩
  rw [step_of_idle hrun hphase, hvalid]
  rfl

/-! ## DONE: deliver or wait (R110, R122) -/

/-- Settles O49: in DONE the readiness alone selects the deliver step. -/
theorem deliverHandsOverTheResponse : Obligations.DeliverHandsOverTheResponse := by
  unfold Obligations.DeliverHandsOverTheResponse
  refine ⟨fun s => beq_iff_eq, fun s hrun hphase => ?_⟩
  rw [step_of_done hrun hphase]
  refine ⟨fun hready => ?_, fun hready => ?_⟩ <;> rw [hready] <;> rfl

/-! ## Outside IDLE the request port is not read (R136, R137) -/

/-- Outside IDLE a step reads `rsp_ready` alone of the request and response ports. -/
theorem stepPhase_eq_of_not_idle {s : State} {p q : Pins} (hphase : s.phase ≠ .idle)
    (hready : p.rspReady = q.rspReady) : stepPhase p s = stepPhase q s := by
  cases h : s.phase with
  | idle => exact absurd h hphase
  | busy | done => simp only [stepPhase, h, hready]

/-- Everything a computing that answers a next state can be: the operation of the decoded instruction, or the selector's
error (R97). -/
theorem compute_cases {s t : State} (h : compute s = .next t) :
    (∃ i, decode s.req = .instr i ∧ exec i s = .next t) ∨ t = s.raise .invalidSelector := by
  cases hd : decode s.req with
  | instr i =>
    simp only [compute, hd] at h
    exact .inl ⟨i, rfl, h⟩
  | reject why =>
    cases why with
    | bufferTooShort | unknownSelector =>
      simp only [compute, hd] at h
      cases h
      exact .inr rfl
    | reservedCommand =>
      simp only [compute, hd] at h
      cases h

/-- The computing of a transaction ends it. -/
theorem endsIn_of_compute {s t : State} (h : compute s = .next t) : s.EndsIn t := by
  rcases compute_cases h with ⟨i, -, hexec⟩ | rfl
  · exact endsIn_of_exec hexec
  · exact s.endsIn_raise _

/-- Outside IDLE a step that no reset touches keeps REQ, whatever it does. -/
theorem req_of_step_of_not_idle {s t : State} (hrun : s.Running) (hphase : s.phase ≠ .idle) (h : step s = .next t) :
    t.req = s.req := by
  obtain ⟨hrst, hheld⟩ := hrun
  rcases step_cases h with ⟨hr, -⟩ | ⟨-, hr, -⟩ | ⟨-, -, ⟨hp, -⟩ | ⟨hp, -⟩ | ⟨-, -, rfl⟩ | ⟨-, -, hc⟩ | ⟨-, -, rfl⟩ |
    ⟨-, -, rfl⟩⟩
  · cases hrst.symm.trans hr
  · cases hheld.symm.trans hr
  · exact absurd hp hphase
  · exact absurd hp hphase
  · rfl
  · exact (endsIn_of_compute hc).req
  · rfl
  · rfl

/-- Settles O48: the two schedules differ in the request port of one step, which the step does not read. -/
theorem busyBlockIgnoresTheRequestPort : Obligations.BusyBlockIgnoresTheRequestPort := by
  unfold Obligations.BusyBlockIgnoresTheRequestPort
  intro s t p q rest hheld hphase hrst hport h
  have hrunp : State.Running { s with host := p :: rest } := ⟨hrst, hheld⟩
  have hrstq : q.rst = false := by rw [hport]; exact hrst
  have hrunq : State.Running { s with host := q :: rest } := ⟨hrstq, hheld⟩
  have hready : q.rspReady = p.rspReady := by rw [hport]
  refine ⟨?_, ?_, beq_eq_false_iff_ne.mpr hphase⟩
  · calc step { s with host := q :: rest }
      _ = stepPhase q { s with host := rest } := hrunq.step_eq
      _ = stepPhase p { s with host := rest } := stepPhase_eq_of_not_idle hphase hready
      _ = step { s with host := p :: rest } := hrunp.step_eq.symm
      _ = .next t := h
  · exact req_of_step_of_not_idle (s := { s with host := p :: rest }) hrunp hphase h

/-! ## Reset (R35, R132, R133) -/

/-- Settles O51: the reset values, with the observation and the schedule of the host outside the block. -/
theorem resetDropsTheTransaction : Obligations.ResetDropsTheTransaction := by
  unfold Obligations.ResetDropsTheTransaction
  exact fun s hreset => ⟨_, step_of_reset hreset, rfl, rfl, rfl, rfl, rfl, rfl, rfl⟩

/-- Settles O52: the fields of the reset state. -/
theorem resetState : Obligations.ResetState := ⟨rfl, rfl, rfl, rfl, rfl, rfl⟩

/-! ## A whole transaction (R108 to R110, R142) -/

/-- What a BUSY step that no reset touches leaves of the reset flag, the schedule and the observation. -/
theorem step_of_busy_frame {s t : State} (hrun : s.Running) (hphase : s.phase = .busy) (h : step s = .next t) :
    t.rstHeld = false ∧ t.host = s.host.tail ∧ t.observed = s.observed := by
  rw [step_of_busy hrun hphase] at h
  split_ifs at h
  · obtain ⟨-, hheld, -, hhost, hobserved⟩ := (endsIn_of_compute h).frame
    exact ⟨hheld.trans hrun.2, hhost, hobserved⟩
  · cases h
    exact ⟨hrun.2, rfl, rfl⟩

theorem step_of_runSteps_one {s t : State} (h : runSteps 1 s = .next t) : step s = .next t := by
  cases hs : step s with
  | next u => rwa [runSteps_next 0 hs] at h
  | fault r => nomatch r
  | refused r =>
    rw [runSteps, hs] at h
    cases h

/-- The same of all the BUSY steps of a transaction, by induction on the latency left. -/
theorem runSteps_busy_frame {s t : State} {n : Nat} (hleft : s.busyLeft = n) (hphase : s.phase = .busy)
    (hheld : s.rstHeld = false) (hhost : ∀ p ∈ s.host.take (n + 1), p.rst = false)
    (h : runSteps (n + 1) s = .next t) :
    t.rstHeld = false ∧ t.host = s.host.drop (n + 1) ∧ t.observed = s.observed := by
  have hrun : s.Running := ⟨State.pins_rst_of_take hhost, hheld⟩
  induction n generalizing s with
  | zero =>
    rw [List.drop_one]
    exact step_of_busy_frame hrun hphase (step_of_runSteps_one h)
  | succ n ih =>
    have hstep := step_of_busy_waiting hrun hphase (by omega)
    rw [runSteps_next _ hstep] at h
    have htail := tail_take_rst hhost
    obtain ⟨hheld', hdrop, hobserved⟩ := ih (s := s.advance.stayBusy) (by simp [hleft]) hphase hheld htail h
      ⟨State.pins_rst_of_take htail, hheld⟩
    exact ⟨hheld', hdrop.trans List.drop_tail, hobserved⟩

theorem State.pins_of_host {s : State} {p : Pins} {rest : List Pins} (h : s.host = p :: rest) : s.pins = p := by
  rw [State.pins, h, List.headD_cons]

/-- A BUSY block that no reset cuts, and whose host is ready once it is DONE, delivers the answer to its request. -/
theorem runSteps_busy_delivers {s : State} {n : Nat} {middle rest : List Pins} {r : Pins} (hleft : s.busyLeft = n)
    (hphase : s.phase = .busy) (hcmd : s.req.cmd ≠ 3#2) (hheld : s.rstHeld = false)
    (hhost : s.host = middle ++ r :: rest) (hlen : middle.length = n + 1) (hmiddle : ∀ q ∈ middle, q.rst = false)
    (hrst : r.rst = false) (hready : r.rspReady = true) :
    ∃ t rsp, runSteps (n + 2) s = .next t ∧ t.phase = .idle ∧ t.host = rest ∧
      t.observed = s.observed ++ [(s.req, rsp)] ∧ rsp.Answers Config.abiStrict s.req := by
  have hbusy : ∀ q ∈ s.host.take (n + 1), q.rst = false := by simpa [hhost, ← hlen] using hmiddle
  obtain ⟨u, hrun, hdone, hreq, hanswers⟩ := runSteps_busy_reaches_done hleft hphase hcmd hheld hbusy
  obtain ⟨huheld, huhost, huobserved⟩ := runSteps_busy_frame hleft hphase hheld hbusy hrun
  have hurest : u.host = r :: rest := by simp [huhost, hhost, ← hlen]
  have hupins := State.pins_of_host hurest
  have hdeliver : step u = .next u.advance.deliver := by
    rw [step_of_done ⟨hupins ▸ hrst, huheld⟩ hdone, hupins, hready, if_pos rfl]
  refine ⟨u.advance.deliver, u.rsp, ?_, rfl, ?_, ?_, hanswers⟩
  · rw [runSteps_add _ 1 hrun, runSteps_next 0 hdeliver, runSteps]
  · simp [hurest]
  · simp [huobserved, hreq]

/-- Settles O57: the accept step, then the BUSY steps of the drawn latency and the deliver step. -/
theorem oneTransactionEndToEnd : Obligations.OneTransactionEndToEnd := by
  unfold Obligations.OneTransactionEndToEnd
  intro s p r middle rest hphase hheld hhost hrst hvalid hdutiful hlen hmiddle hrrst hready
  obtain rfl := State.pins_of_host hhost
  have hcmd : s.pins.request.cmd ≠ 3#2 := (hdutiful hvalid).1
  have htail : s.host.tail = middle ++ r :: rest := by rw [hhost, List.tail_cons]
  rw [runSteps_next _ (step_of_dutiful_offer ⟨hrst, hheld⟩ hphase hvalid hdutiful)]
  exact runSteps_busy_delivers (s := s.advance.latch s.pins.request) rfl rfl hcmd hheld htail hlen hmiddle hrrst hready

end Sys2Proof.Machine

/-! PROOFS. The invariant of the block and its runs (R23, R24, R33, R84, R107, R142): reset meets it, each kind of step
keeps it, and while the host keeps its duties every step of a safe block answers a safe next state. -/

namespace Sys2Proof.Machine

/-! ## The operations keep the mixer idle and the chainer in range (R23, R84) -/

/-- The instruction of a legal request fits the buffer it was decoded from (R11, R24). -/
theorem wellFormed_of_decode {r : Request} {i : Instr} (hwf : Memory.wf r.buf) (h : decode r = .instr i) :
    i.WellFormed := by
  obtain ⟨hcmd, hbuf, -⟩ := encodeOfDecode r i h
  cases i with
  | hash1 a => rfl
  | hash2 a b => rfl
  | poseidon1 p | poseidon2 p | poseidonN p =>
    have hlen := congrArg List.length (hbuf hcmd.symm)
    simp only [encode, callRequest, List.length_append, beBytes_length] at hlen
    exact decide_eq_true (hlen.trans_le hwf)

theorem State.EndsPair.mixerIdle {s t : State} (h : s.EndsPair t) (hidle : s.dp.pm.phase = .pmIdle) :
    t.dp.pm.phase = .pmIdle := by
  rcases h with ⟨pe, pm, v, hpm, rfl⟩ | ⟨e, rfl⟩
  · exact hpm
  · exact hidle

theorem exec_mixerIdle {i : Instr} {s t : State} (hidle : s.dp.pm.phase = .pmIdle) (h : exec i s = .next t) :
    t.dp.pm.phase = .pmIdle := by
  cases i with
  | poseidon1 p => rwa [(endsSingle_of_exec (.inl ⟨p, rfl⟩) h).frame.1]
  | hash1 a => rwa [(endsSingle_of_exec (.inr ⟨a, rfl⟩) h).frame.1]
  | poseidon2 p => exact (endsPair_of_exec (.inl ⟨p, rfl⟩) h).mixerIdle hidle
  | hash2 a b => exact (endsPair_of_exec (.inr ⟨a, b, rfl⟩) h).mixerIdle hidle
  | poseidonN p =>
    rcases State.afterDecode_cases h with ⟨e, -, rfl⟩ | ⟨elems, -, rfl⟩
    · exact hidle
    rcases s.runArray_ends elems with ⟨pe, pm, k, acc, v, hpm, hend⟩ | ⟨e, -, hend⟩ <;> rw [hend]
    · rcases hpm with rfl | hpm
      · exact hidle
      · exact hpm
    · exact hidle

/-- An array within the decode's range leaves the chainer's registers in range, folded or not (R23). -/
theorem State.runArray_inRange {elems : List Word} {s : State} (hrange : s.dp.ac.InRange)
    (hlen : elems.length ≤ maxElements Config.abiStrict) : (s.runArray elems).dp.ac.InRange := by
  obtain ⟨-, hpos, hmax⟩ := hrange
  obtain ⟨helem, hk | ⟨hne, hk⟩⟩ := State.runArray_ac elems s <;> rw [Ac.InRange, Ac.n, helem, hk]
  · exact ⟨hlen, hpos, hmax⟩
  · exact ⟨hlen, List.length_pos_iff.mpr hne, hlen.trans (Nat.le_max_right _ _)⟩

theorem exec_chainerInRange {i : Instr} {s t : State} (hwf : i.WellFormed) (hrange : s.dp.ac.InRange)
    (h : exec i s = .next t) : t.dp.ac.InRange := by
  cases i with
  | poseidon1 p => rwa [(endsSingle_of_exec (.inl ⟨p, rfl⟩) h).frame.2]
  | hash1 a => rwa [(endsSingle_of_exec (.inr ⟨a, rfl⟩) h).frame.2]
  | poseidon2 p => rwa [(endsPair_of_exec (.inl ⟨p, rfl⟩) h).ac]
  | hash2 a b => rwa [(endsPair_of_exec (.inr ⟨a, b, rfl⟩) h).ac]
  | poseidonN p =>
    have hfits : 4 + p.length ≤ Config.maxCalldata := of_decide_eq_true hwf
    rcases State.afterDecode_cases h with ⟨e, -, rfl⟩ | ⟨elems, hd, rfl⟩
    · exact hrange
    · exact State.runArray_inRange hrange (decodePN_ok_in_range hfits hd)

/-! ## Each kind of step keeps the invariant -/

theorem State.reset_inv : State.reset.Inv where
  bufferFits := State.reset_wf
  legal := fun h => absurd rfl h
  mixerIdle := rfl
  chainerInRange := Ac.unspecified_inRange 0
  offered := fun h => nomatch h
  delivered := fun _ h => nomatch h

/-- Settles O53: the unspecified registers are drawn in their ranges, and an idle block offers nothing. -/
theorem resetMeetsInvariant : Obligations.ResetMeetsInvariant := State.reset_inv

section
variable {s : State} (h : s.Inv)
include h

theorem State.Inv.advance : s.advance.Inv :=
  ⟨h.bufferFits, h.legal, h.mixerIdle, h.chainerInRange, h.offered, h.delivered⟩

theorem State.Inv.stayBusy : s.stayBusy.Inv :=
  ⟨h.bufferFits, h.legal, h.mixerIdle, h.chainerInRange, h.offered, h.delivered⟩

theorem State.Inv.enterReset (held : Bool) : (s.enterReset held).Inv where
  bufferFits := s.enterReset_wf held
  legal := fun hphase => absurd rfl hphase
  mixerIdle := rfl
  chainerInRange := Ac.unspecified_inRange s.draws
  offered := fun hphase => nomatch hphase
  delivered := h.delivered

theorem State.Inv.latch {r : Request} (hr : Request.Legal r) : (s.latch r).Inv where
  bufferFits := hr.2
  legal := fun _ => hr
  mixerIdle := h.mixerIdle
  chainerInRange := h.chainerInRange
  offered := fun hphase => nomatch hphase
  delivered := h.delivered

/-- The delivered response is the one that was offered. -/
theorem State.Inv.deliver (hphase : s.phase = .done) : s.deliver.Inv where
  bufferFits := h.bufferFits
  legal := fun hidle => absurd rfl hidle
  mixerIdle := h.mixerIdle
  chainerInRange := h.chainerInRange
  offered := fun hdone => nomatch hdone
  delivered := by
    intro rp hrp
    rcases List.mem_append.mp hrp with hold | hnew
    · exact h.delivered rp hold
    · rw [List.mem_singleton.mp hnew]
      exact h.offered hphase

/-- The computing ends the transaction with an answer to its request; the registers it writes stay in range. -/
theorem State.Inv.compute {t : State} (hphase : s.phase = .busy) (hcompute : compute s = .next t) : t.Inv := by
  have hends := endsIn_of_compute hcompute
  obtain ⟨hreq, -, -, -, hobserved⟩ := hends.frame
  have hregisters : t.dp.pm.phase = .pmIdle ∧ t.dp.ac.InRange := by
    rcases compute_cases hcompute with ⟨i, hd, hexec⟩ | rfl
    · exact ⟨exec_mixerIdle h.mixerIdle hexec,
        exec_chainerInRange (wellFormed_of_decode h.bufferFits hd) h.chainerInRange hexec⟩
    · exact ⟨h.mixerIdle, h.chainerInRange⟩
  exact {
    bufferFits := hreq ▸ h.bufferFits
    legal := fun _ => hreq ▸ h.legal (by simp [hphase])
    mixerIdle := hregisters.1
    chainerInRange := hregisters.2
    offered := fun _ => hreq ▸ compute_answers hcompute
    delivered := hobserved ▸ h.delivered }

end

/-- Settles O54: by the kinds of step, each from the state whose schedule has moved on. -/
theorem stepKeepsInvariant : Obligations.StepKeepsInvariant := by
  unfold Obligations.StepKeepsInvariant
  intro s t hinv hstep
  have hadvance := hinv.advance
  rcases step_cases hstep with ⟨-, rfl⟩ | ⟨-, -, rfl⟩ | ⟨-, -, ⟨-, -, rfl⟩ | ⟨-, -, hcmd, hlen, rfl⟩ | ⟨-, -, rfl⟩ |
    ⟨hphase, -, hcompute⟩ | ⟨-, -, rfl⟩ | ⟨hphase, -, rfl⟩⟩
  · exact hadvance.enterReset true
  · exact hadvance.enterReset false
  · exact hadvance
  · exact hadvance.latch ⟨hcmd, hlen⟩
  · exact hadvance.stayBusy
  · exact hadvance.compute hphase hcompute
  · exact hadvance
  · exact hadvance.deliver hphase

/-! ## A dutiful host never stops the block (R112, R139) -/

/-- Every step moves the host's schedule on by one step's signals. -/
theorem step_host {s t : State} (h : step s = .next t) : t.host = s.host.tail := by
  rcases step_cases h with ⟨-, rfl⟩ | ⟨-, -, rfl⟩ | ⟨-, -, ⟨-, -, rfl⟩ | ⟨-, -, -, -, rfl⟩ | ⟨-, -, rfl⟩ |
    ⟨-, -, hcompute⟩ | ⟨-, -, rfl⟩ | ⟨-, -, rfl⟩⟩
  · rfl
  · rfl
  · rfl
  · rfl
  · rfl
  · obtain ⟨-, -, -, hhost, -⟩ := (endsIn_of_compute hcompute).frame
    exact hhost
  · rfl
  · rfl

/-- The signals of the next step are scheduled ones, or quiet ones that offer nothing. -/
theorem State.pins_dutiful {s : State} (h : ∀ p ∈ s.host, p.Dutiful) : s.pins.Dutiful := by
  unfold State.pins
  cases hhost : s.host with
  | nil => exact fun hvalid => nomatch hvalid
  | cons p rest => exact h p (by simp [hhost])

/-- A safe block answers a next state: an offered request is dutiful and a latched one is legal. -/
theorem State.Safe.step_next {s : State} (h : s.Safe) : ∃ t, step s = .next t := by
  by_cases hreset : s.pins.rst = true ∨ s.rstHeld = true
  · exact ⟨_, step_of_reset hreset⟩
  have hrun : s.Running := by simpa [State.Running] using hreset
  cases hphase : s.phase with
  | idle =>
    by_cases hvalid : s.pins.reqValid = true
    · exact ⟨_, step_of_dutiful_offer hrun hphase hvalid (State.pins_dutiful h.dutiful)⟩
    · exact ⟨_, (step_of_idle hrun hphase).trans (if_neg hvalid)⟩
  | busy =>
    by_cases hleft : s.busyLeft = 0
    · obtain ⟨t, hstep, -⟩ :=
        State.Computing.step_reaches_done ⟨hrun, hphase, hleft⟩ (h.inv.legal (by simp [hphase])).1
      exact ⟨t, hstep⟩
    · exact ⟨_, step_of_busy_waiting hrun hphase hleft⟩
  | done => exact ⟨_, step_of_done hrun hphase⟩

theorem State.Safe.of_step {s t : State} (h : s.Safe) (hstep : step s = .next t) : t.Safe where
  dutiful := fun p hp => h.dutiful p (List.mem_of_mem_tail (step_host hstep ▸ hp))
  inv := stepKeepsInvariant s t h.inv hstep

/-- Settles O55: by induction on the length of the run, a step at a time. -/
theorem dutifulHostNeverStopsTheBlock : Obligations.DutifulHostNeverStopsTheBlock := by
  unfold Obligations.DutifulHostNeverStopsTheBlock
  intro s hs k
  induction k generalizing s with
  | zero => exact ⟨s, rfl, hs⟩
  | succ k ih =>
    obtain ⟨t, hstep⟩ := hs.step_next
    rw [runSteps_next k hstep]
    exact ih t (hs.of_step hstep)

/-! ## The ranges of the chainer's registers (R23, R92) -/

/-- Where reset draws the chainer's registers: `ac.k` in `1 .. ac.n` when there are elements. -/
theorem Ac.unspecified_ranges (k : Nat) :
    (Ac.unspecified k).n ≤ Config.maxN ∧ 1 ≤ (Ac.unspecified k).k ∧
      ((Ac.unspecified k).n ≠ 0 → (Ac.unspecified k).k ≤ (Ac.unspecified k).n) := by
  refine ⟨Ac.unspecified_n_le k, Ac.unspecified_k_pos k, fun hn => ?_⟩
  have hne : (Ac.unspecified k).elem ≠ [] := fun h => hn (by rw [Ac.n, h, List.length_nil])
  exact (Ac.unspecified_k_le k).trans_eq (if_neg hne)

/-- An array whose offset word is 32 or more leaves the two head words of `MAX_N` before its elements; with offset word
0 it is empty. -/
theorem decodePN_ok_le_maxN {strict : Bool} {p : List Byte} {elems : List Word}
    (hp : 4 + p.length ≤ Config.maxCalldata) (h : decodePN strict p = .ok elems)
    (hoffset : (payloadWord p 0).toNat = 0 ∨ 32 ≤ (payloadWord p 0).toNat) :
    elems.length ≤ Config.maxN := by
  obtain ⟨hfit, hzero, -⟩ := decodePN_ok_length h
  rw [Config.maxN]
  rcases hoffset with h0 | h32
  · rw [hzero h0]
    exact Nat.zero_le _
  · omega

/-- A fold step moves the index on by one and leaves the elements (R92). -/
theorem Datapath.acFold_ac (d : Datapath) : d.acFold.ac.k = d.ac.k + 1 ∧ d.acFold.ac.elem = d.ac.elem := by
  obtain ⟨x, t, hrun⟩ := Datapath.pmRun_spec d.ac.acc (d.ac.at d.ac.k) d
  rw [Datapath.acFold, hrun]
  exact ⟨rfl, rfl⟩

theorem Datapath.acFold_iterate_ac (d : Datapath) (j : Nat) :
    (Datapath.acFold^[j] d).ac.k = d.ac.k + j ∧ (Datapath.acFold^[j] d).ac.elem = d.ac.elem := by
  induction j with
  | zero => exact ⟨rfl, rfl⟩
  | succ j ih =>
    obtain ⟨hk, helem⟩ := (Datapath.acFold^[j] d).acFold_ac
    rw [Function.iterate_succ_apply', hk, helem, ih.1, ih.2]
    exact ⟨rfl, rfl⟩

/-- Settles O60: the draws of reset, the bounds of a decode, and the index counted up by the fold. -/
theorem arrayRegistersStayInRange : Obligations.ArrayRegistersStayInRange := by
  unfold Obligations.ArrayRegistersStayInRange
  refine ⟨fun s hs => ?_, fun strict p elems hp hd => ⟨decodePN_ok_in_range hp hd, fun hoffset => ?_⟩, rfl,
    maxElements_le false, fun d j _ => ?_⟩
  · rcases hs with rfl | ⟨u, hreset, hstep⟩
    · exact Ac.unspecified_ranges 0
    · cases (step_of_reset hreset).symm.trans hstep
      exact Ac.unspecified_ranges u.draws
  · have hword : (payloadWord p 0).toNat = be (p.take 32) := payloadWord_toNat p 0
    exact decodePN_ok_le_maxN hp hd (hword ▸ hoffset)
  · obtain ⟨hk, helem⟩ := d.acStart.acFold_iterate_ac j
    exact ⟨hk.trans (Nat.add_comm 1 j), helem⟩

end Sys2Proof.Machine
